-- ==== Sys2Proof/Word.lean ====
section
/-! DEFINITION. The plainest types of the block: bytes, 16-bit words, and the index types of its tables. -/
namespace Sys2Proof

/-- One byte of a frame, a record or the array. -/
abbrev Byte := BitVec 8

/-- A 16-bit word, such as the notice word. -/
abbrev Half := BitVec 16

/-- A drive channel DC0 to DC11. -/
abbrev Chan := Fin 12

/-- An assembly A0 to A7. -/
abbrev Asm := Fin 8

/-- A slot of the hold table. -/
abbrev HoldSlot := Fin 32

/-- A slot of the order table. -/
abbrev OrderSlot := Fin 8

/-- A profile slot of the store. -/
abbrev ProfileSlot := Fin 32

end Sys2Proof
end

