-- ==== Sys2Proof/Syntax.lean ====
section
/-! DEFINITION. The commands of the block: one constructor per row of spec/opcode_table.json. -/
namespace Sys2Proof

/-- The raw levels (true is high) of the four input pins of one channel (10 section 10.6). -/
structure ChanPins where
  eni : Bool
  eno : Bool
  aux : Bool
  trp : Bool
  deriving DecidableEq, Repr

/-- The raw levels of the part's input pins that are read as levels (true is high). -/
structure Pins where
  chan : Vector ChanPins 12
  ign  : Bool
  pbrk : Bool
  lowv : Bool
  estp : Bool
  rls  : Bool
  deriving DecidableEq, Repr

/-- The two ends of a channel's travel. -/
inductive End where
  | inEnd
  | outEnd
  deriving DecidableEq, Repr

/-- The two lines of the ROAD cause (R69). -/
inductive RoadLine where
  | ign
  | pbrk
  deriving DecidableEq, Repr

/-- The two axes of the tilt meter (R135): TLX gives pitch, TLY gives roll. -/
inductive TiltAxis where
  | pitch
  | roll
  deriving DecidableEq, Repr

/-- A command to the block. A request carries the party byte and the argument bytes of its frame (R176, R200); an event
carries the record it reaches. -/
inductive Instr where
  -- requests of the command port
  | readIdent     (party : Byte) (args : List Byte)
  | readNotices   (party : Byte) (args : List Byte)
  | setNoticeMask (party : Byte) (args : List Byte)
  | readRange     (party : Byte) (args : List Byte)
  | readOrder     (party : Byte) (args : List Byte)
  | setChannel    (party : Byte) (args : List Byte)
  | setAssembly   (party : Byte) (args : List Byte)
  | setLeveller   (party : Byte) (args : List Byte)
  | setWind       (party : Byte) (args : List Byte)
  | setLines      (party : Byte) (args : List Byte)
  | setSweep      (party : Byte) (args : List Byte)
  | commitSetup   (party : Byte) (args : List Byte)
  | placeHold     (party : Byte) (args : List Byte)
  | liftHold      (party : Byte) (args : List Byte)
  | renewHold     (party : Byte) (args : List Byte)
  | clearHold     (party : Byte) (args : List Byte)
  | orderTravel   (party : Byte) (args : List Byte)
  | orderJog      (party : Byte) (args : List Byte)
  | orderLevel    (party : Byte) (args : List Byte)
  | orderStow     (party : Byte) (args : List Byte)
  | orderRecall   (party : Byte) (args : List Byte)
  | amend         (party : Byte) (args : List Byte)
  | cancel        (party : Byte) (args : List Byte)
  | release       (party : Byte) (args : List Byte)
  | retire        (party : Byte) (args : List Byte)
  | stopAll       (party : Byte) (args : List Byte)
  | stageWrite    (party : Byte) (args : List Byte)
  | saveProfile   (party : Byte) (args : List Byte)
  | readProfile   (party : Byte) (args : List Byte)
  | eraseProfile  (party : Byte) (args : List Byte)
  | setProtect    (party : Byte) (args : List Byte)
  -- frames that carry no request
  | badCheck
  | unknownRequest
  | frameOverlong
  | frameAbandoned
  -- events of a drive channel
  | inBecomesActive    (c : Chan)
  | outBecomesActive   (c : Chan)
  | endBecomesInactive (c : Chan) (e : End)
  | auxChange          (c : Chan) (active : Bool)
  | trpBecomesActive   (c : Chan)
  | trpBecomesInactive (c : Chan)
  | count              (c : Chan)
  | rampInterval       (c : Chan)
  | stallTimerExpiry   (c : Chan)
  | coastWindowExpiry  (c : Chan)
  | pause              (c : Chan)
  | resume             (c : Chan)
  | cut                (c : Chan)
  | ease               (c : Chan)
  -- what the order engine takes from its neighbours
  | channelReport (c : Chan)
  | skewReport    (a : Asm)
  | stopNotice    (o : OrderSlot)
  -- chassis lines and wind
  | ignOrPbrkChange (line : RoadLine) (active : Bool)
  | lowvChange      (active : Bool)
  | lowvOnDelayExpiry
  | lowvOffDelayExpiry
  | estpChange      (active : Bool)
  | wndPulse
  | windowExpiry
  | calmTimerExpiry
  -- tilt meter and leveller
  | tiltReading     (axis : TiltAxis) (high period : Nat)
  | axisTimerExpiry (axis : TiltAxis)
  | solveTimerExpiry
  | settleTimerExpiry
  -- timers of records
  | armedTimerExpiry (o : OrderSlot)
  | lingerExpiry     (o : OrderSlot)
  | holdExpiry       (h : HoldSlot)
  | rlsFallingEdge
  -- the profile store; `flaws` are the bytes of the array that did not take the step (normally none)
  | eraseStepEnd (flaws : List Host.Cell)
  | rowStepEnd   (flaws : List Host.Cell)
  | guardMet
  | haltComplete
  | serveRead
  -- the part and its frame assembler
  | powerOn
  | rstAssert
  | rstRelease
  | ready (pins : Pins)
  | selFalls
  | byteComplete (sdi : Byte)
  | frameEnd
  | powerLoss
  deriving DecidableEq, Repr

end Sys2Proof
end

