-- ==== Sys2Proof/Config.lean ====
section
/-! DEFINITION. What the part fixes (its delays, in microseconds) and the values its manual leaves open. -/
namespace Sys2Proof.Config

/-- One millisecond, in the model's unit of time, the microsecond. -/
def ms : Nat := 1000

/-- One second. -/
def sec : Nat := 1000000

/-- The time one idle step lets pass (DESIGN CHOICE, notes/assumptions/2.md). -/
def quantum : Nat := 50

/-- R8: the ramp interval. -/
def rampInterval : Nat := 20 * ms

/-- R7: the coast window. -/
def coastWindow : Nat := 200 * ms

/-- R68, R188: the fixed filter of the chassis lines and of RLS. -/
def lineFilter : Nat := 10 * ms

/-- R70: the on-delay of LOWV. -/
def lowvOnDelay : Nat := 500 * ms

/-- R70: the off-delay of LOWV. -/
def lowvOffDelay : Nat := 2000 * ms

/-- R136: the axis timer of the tilt meter. -/
def axisTimer : Nat := 100 * ms

/-- R141: the solve timer. -/
def solveTimer : Nat := 400 * ms

/-- R99: the armed timer. -/
def armedTimer : Nat := 30 * sec

/-- R112: the linger of a final order. -/
def linger : Nat := 60 * sec

/-- R153: a unit erase. -/
def eraseTime : Nat := 25 * ms

/-- R153: a row program. -/
def rowTime : Nat := 1500

/-- R172: the progress at which the guard is met. -/
def guardTime : Nat := 1 * ms

/-- R172: the halt of a running step. -/
def haltTime : Nat := 150

/-- FREE VALUE (R153, notes/assumptions/10.md): what a byte of the array holds after a row program over a byte that
did not stand erased; the arguments are the draw of the array, the byte's address, the byte that stood there and the byte
programmed. -/
opaque overProgrammed : Nat → Nat → Byte → Byte → Byte

/-- FREE VALUE (R154, notes/assumptions/10.md): what a byte of the array holds after a reset or a power loss interrupts the
step that works on it; the arguments are the draw of the array, the byte's address, the byte that stood there and the byte
the step would have left. -/
opaque interrupted : Nat → Nat → Byte → Byte → Byte

/-- FREE VALUE (R201, notes/assumptions/11.md): what a signed two-byte field of a returned record reads where its
value does not fit 16 bits. -/
opaque wideField : Int → Half

end Sys2Proof.Config
end

