-- ==== Sys2Proof/Machine/State.lean ====
section
/-! DEFINITION. The state of the block: every record, timer, table, buffer and pin the manual gives it, and the machine
right after a power-on reset. Times are in microseconds. -/
namespace Sys2Proof.Machine

/-! ## Values of the drive channels (chapter 1) -/

/-- R6: a direction of travel; IN falls, OUT rises. -/
inductive Dir where
  | dirIn
  | dirOut
  deriving DecidableEq, Repr

/-- Section 2.3: the travel profiles. -/
inductive Profile where
  | creep
  | run
  | ramped
  deriving DecidableEq, Repr

/-- R7: the states of a channel. -/
inductive ChState where
  | idle
  | starting
  | running
  | approach
  | paused
  | easing
  deriving DecidableEq, Repr

/-- R6: the states a PAUSED channel can have left. -/
inductive PausedFrom where
  | starting
  | running
  | approach
  deriving DecidableEq, Repr

/-- R6: the target of a channel. -/
inductive Target where
  | at (p : Nat)
  | endIn
  | endOut
  | distance (d : Nat)
  deriving DecidableEq, Repr

/-- R1: how an end is found. -/
inductive EndMode where
  | sensor
  | stall
  deriving DecidableEq, Repr

/-- R1, R195: the level of a pin that is active. -/
inductive Polarity where
  | activeHigh
  | activeLow
  deriving DecidableEq, Repr

/-- R6, R50: faults, as last_fault and as the detail of a FAULT hold. -/
inductive FaultKind where
  | stall
  | trip
  | endMissing
  | sensorConflict
  | skew
  | lostContact
  deriving DecidableEq, Repr

/-- R15: the report that ends a motion. -/
inductive ReportKind where
  | arrival
  | halt
  | fault (k : FaultKind)
  deriving DecidableEq, Repr

/-- R6: the live record of a channel. -/
structure Channel where
  state         : ChState
  direction     : Dir
  profile       : Profile
  target        : Target
  pausedFrom    : PausedFrom
  duty          : Nat
  /-- The duty to resume at (R7, R12). -/
  dutyHeld      : Nat
  position      : Nat
  positionKnown : Bool
  travelled     : Nat
  overrun       : Nat
  drift         : Nat
  contactPos    : Option Nat
  /-- The end_tolerance in force until the next start, where SET_CHANNEL has changed the setup's since the last one; none
  where the setup's is in force (R3). -/
  heldTolerance : Option Nat
  inActive      : Bool
  outActive     : Bool
  auxActive     : Bool
  trpActive     : Bool
  lastFault     : Option FaultKind
  /-- Time left in the ramp interval, if it runs (R8). -/
  rampTimer     : Option Nat
  /-- Time left on the stall timer, if it runs (R23). -/
  stallTimer    : Option Nat
  /-- Time left in the coast window, if it runs (R7). -/
  coastTimer    : Option Nat
  /-- Level of the DIR output, true for high (R4). -/
  dirHigh       : Bool
  /-- How long a raw change has waited in the filter of ENI, ENO, AUX (R5). -/
  eniWait       : Option Nat
  enoWait       : Option Nat
  auxWait       : Option Nat
  /-- The report that ended the last motion, none since the last start that drives (model's own; R44 asks for it). -/
  lastReport    : Option ReportKind
  deriving DecidableEq, Repr

/-- R1: the setup of a channel. -/
structure ChannelSetup where
  assembly     : Option Asm
  dirInvert    : Bool
  inMode       : EndMode
  outMode      : EndMode
  eniLevel     : Polarity
  enoLevel     : Polarity
  auxLevel     : Polarity
  trpLevel     : Polarity
  /-- In milliseconds. -/
  filter       : Nat
  span         : Nat
  endWindow    : Nat
  endTolerance : Nat
  creepDuty    : Nat
  runDuty      : Nat
  rampStep     : Nat
  creepIn      : Nat
  approach     : Nat
  /-- In milliseconds. -/
  stallTime    : Nat
  kPitch       : Int
  kRoll        : Int
  maxReach     : Nat
  deriving DecidableEq, Repr

/-! ## Assemblies (chapter 2) -/

/-- R28: the kind of an assembly. -/
inductive AsmKind where
  | none
  | slide
  | stance
  | awning
  deriving DecidableEq, Repr

/-- R28: the setup of an assembly. -/
structure AsmSetup where
  kind        : AsmKind
  channels    : List Chan
  needsStance : Bool
  skewTrim    : Nat
  skewFault   : Nat
  deriving DecidableEq, Repr

/-- R32: the position summary. -/
inductive Summary where
  | unknown
  | atIn
  | atOut
  | between
  deriving DecidableEq, Repr

/-- R40: what the last skew was measured from. -/
inductive Basis where
  | none
  | position
  | travelled
  deriving DecidableEq, Repr

/-- R40: one side of a twin. -/
inductive Side where
  | first
  | second
  deriving DecidableEq, Repr

/-- R32, R33, R40: the live part of an assembly record. -/
structure AsmLive where
  summary : Summary
  settled : Bool
  engaged : Bool
  basis   : Basis
  skew    : Int
  leader  : Option Side
  paused  : Option Side
  deriving DecidableEq, Repr

/-! ## Holds (chapter 3) -/

/-- Section 4 of the introduction: who owns a hold or an order. -/
inductive Owner where
  | party (p : Nat)
  | monitor
  deriving DecidableEq, Repr

/-- R50: the cause of a hold. -/
inductive Cause where
  | party
  | road
  | lowv
  | estop
  | wind
  | unset
  | slidesOut
  | sweep
  | fault
  deriving DecidableEq, Repr

/-- R50: what a hold blocks. -/
inductive Blocks where
  | extend
  | retract
  | both
  deriving DecidableEq, Repr

/-- R50: how a hold stops motion. -/
inductive Style where
  | cut
  | ease
  deriving DecidableEq, Repr

/-- R50: the state of a hold. -/
inductive HoldState where
  | active
  | pendingClear
  deriving DecidableEq, Repr

/-- R50: a hold. Its handle is its slot with the slot's generation (R49). -/
structure Hold where
  owner   : Owner
  cause   : Cause
  /-- Pair 0 to 3 of SWEEP, assembly 0 to 7 of FAULT. -/
  subject : Option Nat
  /-- Bit n stands for assembly n. -/
  scope   : BitVec 8
  blocks  : Blocks
  style   : Style
  latched : Bool
  state   : HoldState
  /-- Time left to the expiry, if there is one. -/
  expiry  : Option Nat
  detail  : Option FaultKind
  deriving DecidableEq, Repr

/-- R48, R49: a slot of the hold table. -/
structure HoldCell where
  gen  : Nat
  hold : Option Hold
  deriving DecidableEq, Repr

/-! ## Orders (chapter 5) -/

/-- R89: the kind of an order. -/
inductive OrderKind where
  | travel
  | jog
  | level
  | stow
  | recall
  deriving DecidableEq, Repr

/-- R89: the target of one assembly. -/
inductive OrderTarget where
  | inn
  | out
  | at (p : Nat)
  deriving DecidableEq, Repr

/-- R89: one entry of the targets list. -/
structure TargetEntry where
  asm    : Asm
  target : OrderTarget
  deriving DecidableEq, Repr

/-- R89: start mode. -/
inductive StartMode where
  | now
  | armed
  deriving DecidableEq, Repr

/-- R155: the kind of a profile. -/
inductive ProfileKind where
  | stance
  | preset
  deriving DecidableEq, Repr

/-- R91: the state of an order. -/
inductive OrderState where
  | loading
  | armed
  | blocked
  | running
  | easing
  | done
  | cancelled
  | stopped
  | failed
  | superseded
  | expired
  deriving DecidableEq, Repr

/-- R89: the result reason. -/
inductive Reason where
  | hold
  | stopAll
  | stall
  | trip
  | skew
  | endMissing
  | sensorConflict
  | lostContact
  | noGround
  | outOfStroke
  | notLevel
  | noTilt
  | profileInvalid
  | profileMismatch
  | claimed
  deriving DecidableEq, Repr

/-- R108: the pending result of an EASING order. -/
inductive PendingResult where
  | final (state : OrderState) (reason : Option Reason)
  | toBlocked
  deriving DecidableEq, Repr

/-- R89: the stage of a leveller order. -/
inductive Stage where
  | none
  | reach
  | solve
  | lift
  | settle
  deriving DecidableEq, Repr

/-- R90: the claim of an entry. -/
inductive EntryClaim where
  | held
  | awaited
  deriving DecidableEq, Repr

/-- R90: the state of an entry. -/
inductive EntryState where
  | wait
  | moving
  | arrived
  | halted
  | faulted
  deriving DecidableEq, Repr

/-- R90: a channel entry. -/
structure Entry where
  chan      : Chan
  claim     : EntryClaim
  state     : EntryState
  direction : Option Dir
  lift      : Int
  /-- The target the next start carries (R117, R125, R139, R143, R147, R149). -/
  goal      : Option Target
  /-- The leveller has asked for a cut of this jack at contact (R140). -/
  contact   : Bool
  deriving DecidableEq, Repr

/-- R149: what the leveller keeps of a stance image. -/
structure StanceImage where
  extensions : List (Chan × Nat)
  trim       : Bool
  deriving DecidableEq, Repr

/-- R89: an order. Its handle is its slot with the slot's generation (R88). -/
structure Order where
  owner       : Owner
  kind        : OrderKind
  mask        : BitVec 8
  targets     : List TargetEntry
  profile     : Profile
  mode        : StartMode
  supersede   : Bool
  profileSlot : Option ProfileSlot
  profileKind : Option ProfileKind
  jogChan     : Option Chan
  jogDistance : Int
  entries     : List Entry
  state       : OrderState
  pending     : Option PendingResult
  stage       : Stage
  pass        : Nat
  reason      : Option Reason
  /-- Time left of the armed time, while ARMED. -/
  armed       : Option Nat
  /-- Time left of the linger, while final. -/
  linger      : Option Nat
  /-- The stored extensions and TRIM flag of a stance recall, once read. -/
  image       : Option StanceImage
  /-- The recall LIFT and the SOLVE after it are still ahead (R149, R150). -/
  recallAhead : Bool
  deriving DecidableEq, Repr

/-- R87, R88: a slot of the order table. -/
structure OrderCell where
  gen   : Nat
  order : Option Order
  deriving DecidableEq, Repr

/-! ## Setup (chapter 10) -/

/-- R137: the leveller setup. -/
structure LevellerSetup where
  tolerance : Nat
  maxPasses : Nat
  /-- In milliseconds. -/
  settle    : Nat
  deadband  : Nat
  deriving DecidableEq, Repr

/-- R194: the length of a wind window. -/
inductive WindWindow where
  | half
  | one
  | two
  deriving DecidableEq, Repr

/-- R194: the wind setup. -/
structure WindSetup where
  caution     : Nat
  retract     : Nat
  tripWindows : Nat
  /-- In seconds. -/
  calmTime    : Nat
  window      : WindWindow
  factor      : Nat
  deriving DecidableEq, Repr

/-- R195: the lines setup. -/
structure LinesSetup where
  ign  : Polarity
  pbrk : Polarity
  lowv : Polarity
  estp : Polarity
  deriving DecidableEq, Repr

/-- R81: a sweep pair. -/
structure SweepPair where
  defined : Bool
  awning  : Asm
  slide   : Asm
  deriving DecidableEq, Repr

/-- R190: the working setup. -/
structure Setup where
  channels : Vector ChannelSetup 12
  asms     : Vector AsmSetup 8
  leveller : LevellerSetup
  wind     : WindSetup
  lines    : LinesSetup
  sweep    : Vector SweepPair 4
  protect  : Nat
  deriving DecidableEq, Repr

/-! ## Monitor unit (chapter 4) -/

/-- R68: a chassis line: its level after polarity and filter, and how long a raw change has waited. -/
structure Line where
  active : Bool
  wait   : Option Nat
  deriving DecidableEq, Repr

/-- R70: the LOWV delay state, with the time left of a delay that runs. -/
inductive LowvDelay where
  | clear
  | onDelay (left : Nat)
  | held
  | offDelay (left : Nat)
  deriving DecidableEq, Repr

/-- R86: the monitor unit and the wind meter. -/
structure Monitor where
  ign       : Line
  pbrk      : Line
  lowv      : Line
  estp      : Line
  lowvDelay : LowvDelay
  /-- The window counter, up to 4095 (R73). -/
  counter   : Nat
  lastSpeed : Nat
  /-- Time left in the wind window, once windows run. -/
  window    : Option Nat
  run       : Nat
  tripped   : Bool
  /-- The time the calm timer has run, if it runs (R78). -/
  calm      : Option Nat
  latches   : Vector (Option FaultKind) 8
  deriving DecidableEq, Repr

/-! ## Tilt meter and leveller (chapter 7) -/

/-- R136: one axis of the tilt meter. -/
structure Axis where
  valid    : Bool
  /-- Oldest first. -/
  readings : List Int
  timer    : Option Nat
  deriving DecidableEq, Repr

/-- R136: the tilt meter. -/
structure TiltMeter where
  pitch : Axis
  roll  : Axis
  deriving DecidableEq, Repr

/-- R131: the stance state. -/
inductive Stance where
  | stowed
  | partly
  | set
  deriving DecidableEq, Repr

/-- R131, R132, R136, R141, R144: the leveller. -/
structure Leveller where
  stance        : Stance
  residualPitch : Int
  residualRoll  : Int
  freshPitch    : Nat
  freshRoll     : Nat
  solveTimer    : Option Nat
  settleTimer   : Option Nat
  deriving DecidableEq, Repr

/-! ## Profile store (chapter 8) -/

/-- A memory in canonical form: addresses strictly rising, no entry equal to what an unlisted address reads as. -/
abbrev Memory := List Host.Cell

/-- R153, R154: the non-volatile array and its unit marks (true is OPEN). -/
structure NvArray where
  mem   : Memory
  marks : Vector Bool 40
  /-- The model's own: how often free values of the array have been drawn (notes/assumptions/10.md). -/
  draws : Nat
  deriving DecidableEq, Repr

/-- R155: the state of a directory entry. -/
inductive DirState where
  | empty
  | valid
  | invalid
  | busy
  deriving DecidableEq, Repr

/-- R155: a directory entry; its pinned count is computed from the read queue (R157). -/
structure DirEntry where
  state : DirState
  kind  : Option ProfileKind
  count : Nat
  tag   : List Byte
  deriving DecidableEq, Repr

/-- R159: the operation under way. -/
inductive OpKind where
  | save
  | erase
  | commit
  deriving DecidableEq, Repr

/-- R159: the step in progress. -/
inductive OpStep where
  | erase (unit : Nat)
  | row (row : Nat)
  deriving DecidableEq, Repr

/-- R159: the place of an operation. -/
inductive OpPlace where
  | slot (p : ProfileSlot)
  | setupArea
  deriving DecidableEq, Repr

/-- R159: the states a SUSPENDED store resumes to. -/
inductive HaltedFrom where
  | erasing
  | programming
  deriving DecidableEq, Repr

/-- R159: the operation record. -/
structure Operation where
  kind       : OpKind
  place      : OpPlace
  step       : OpStep
  /-- Time left in the current step. -/
  remaining  : Nat
  image      : List Byte
  /-- Progress since the operation began or was last resumed (R172). -/
  guard      : Nat
  haltedFrom : HaltedFrom
  deriving DecidableEq, Repr

/-- R159: the store states. -/
inductive StoreState where
  | idle
  | erasing
  | programming
  | suspended
  deriving DecidableEq, Repr

/-- R170: an entry of the read queue. -/
structure ReadEntry where
  order : Byte
  slot  : ProfileSlot
  deriving DecidableEq, Repr

/-- Chapter 8: the profile store. -/
structure Store where
  state     : StoreState
  op        : Option Operation
  /-- Time left of a halt (R172). -/
  halt      : Option Nat
  directory : Vector DirEntry 32
  staging   : List Byte
  /-- Oldest first. -/
  queue     : List ReadEntry
  deriving DecidableEq, Repr

/-! ## Command port (chapter 9) -/

/-- R175: the states of the frame assembler. -/
inductive Assembler where
  | deselected
  | receiving
  | discarding
  | answering
  | trailing
  deriving DecidableEq, Repr

/-- Chapter 9: the command port. -/
structure Port where
  assembler : Assembler
  /-- The request bytes received in this frame. -/
  buffer    : List Byte
  /-- The answer bytes that have not gone out yet. -/
  answer    : List Byte
  /-- The byte that went out last on SDO, or none while SDO is not driven. -/
  sdo       : Option Byte
  /-- The level of SEL, true for high. -/
  selHigh   : Bool
  word      : Half
  mask      : Half
  /-- The level of RLS after its filter, true for high, and how long a raw change has waited. -/
  rlsHigh   : Bool
  rlsWait   : Option Nat
  deriving DecidableEq, Repr

/-! ## The part (chapter 10) -/

/-- R190: the setup status. -/
inductive Status where
  | loading
  | configured
  | unconfigured
  deriving DecidableEq, Repr

/-- R197: the start-up step that comes next; `done` after READY. -/
inductive StartUp where
  | step1
  | step2
  | step3
  | done
  deriving DecidableEq, Repr

/-- R197, R198: supply, reset and start-up. -/
structure Part where
  supply     : Bool
  rstLow     : Bool
  status     : Status
  /-- The status to be taken at READY. -/
  nextStatus : Status
  startUp    : StartUp
  deriving DecidableEq, Repr

/-! ## Messages between blocks -/

/-- R15: a channel's report, with the handle of the order that claimed the channel when it was sent (R98). -/
structure Report where
  chan     : Chan
  kind     : ReportKind
  order    : Byte
  /-- The position an arrival or a halt carries, none where it is unknown (notes/assumptions/37.md). -/
  position : Option Nat
  /-- The end an arrival names (R15, R19, R20). -/
  atEnd    : Option End
  deriving DecidableEq, Repr

/-- R54: a stop notice for an order, with the hold's handle, owner and style, and the channels the table commanded. -/
structure StopNotice where
  order     : Byte
  hold      : Byte
  owner     : Owner
  style     : Style
  commanded : List Chan
  deriving DecidableEq, Repr

/-- A message one block has sent another and that has not been taken yet (95_what_each_step_holds.md gives the taking of
each a step of its own). -/
inductive Msg where
  | cut    (c : Chan)
  | ease   (c : Chan)
  | pause  (c : Chan)
  | resume (c : Chan)
  | report (r : Report)
  | skew   (a : Asm) (order : Byte)
  | stop   (n : StopNotice)
  deriving DecidableEq, Repr

/-! ## The state -/

/-- The whole state of the part, and the commands that wait for it. -/
structure State where
  setup      : Setup
  channels   : Vector Channel 12
  /-- R92: the slot of the order that claims each channel. -/
  claims     : Vector (Option OrderSlot) 12
  /-- R92: the slot of the order that awaits each channel. -/
  succs      : Vector (Option OrderSlot) 12
  asms       : Vector AsmLive 8
  holds      : Vector HoldCell 32
  orders     : Vector OrderCell 8
  mon        : Monitor
  tilt       : TiltMeter
  lev        : Leveller
  store      : Store
  nv         : NvArray
  port       : Port
  pins       : Pins
  sys        : Part
  /-- Messages sent and not yet taken, oldest first. -/
  inFlight   : List Msg
  /-- Inside one action: BLOCKED wind orders are to be reconsidered (R114). Clear between actions. -/
  reconsider : Bool
  /-- The commands that wait, first in first out. -/
  pending    : List Instr
  deriving DecidableEq, Repr

/-- Why a step can stop with a fault: it cannot. The manual describes no event at which the part stops; its own faults
are records it keeps (R26, R83). -/
inductive Fault where
  deriving DecidableEq, Repr

/-- Why a step can be refused. -/
inductive Refusal where
  /-- Raised by an arm of `exec` whose command has no meaning yet; safe, and raised by none now. -/
  | notModelled (mnemonic : String)
  deriving DecidableEq, Repr

/-! ## The state after reset -/

/-- R1: the default setup of a channel. -/
def ChannelSetup.default : ChannelSetup where
  assembly     := none
  dirInvert    := false
  inMode       := .sensor
  outMode      := .sensor
  eniLevel     := .activeHigh
  enoLevel     := .activeHigh
  auxLevel     := .activeHigh
  trpLevel     := .activeHigh
  filter       := 5
  span         := 1000
  endWindow    := 100
  endTolerance := 50
  creepDuty    := 20
  runDuty      := 80
  rampStep     := 5
  creepIn      := 50
  approach     := 300
  stallTime    := 500
  kPitch       := 0
  kRoll        := 0
  maxReach     := 3000

/-- R28: the default of an assembly record. -/
def AsmSetup.default : AsmSetup where
  kind        := .none
  channels    := []
  needsStance := false
  skewTrim    := 100
  skewFault   := 400

/-- R190: the defaults of the working setup. -/
def Setup.default : Setup where
  channels := Vector.replicate 12 ChannelSetup.default
  asms     := Vector.replicate 8 AsmSetup.default
  leveller := { tolerance := 20, maxPasses := 3, settle := 2000, deadband := 10 }
  wind     := { caution := 30, retract := 45, tripWindows := 3, calmTime := 300, window := .one, factor := 16 }
  lines    := { ign := .activeHigh, pbrk := .activeHigh, lowv := .activeLow, estp := .activeLow }
  sweep    := Vector.replicate 4 { defined := false, awning := 0, slide := 0 }
  protect  := 0

/-- R27: a channel after either reset; the fields R27 calls unknown or meaningless hold the values of
notes/assumptions/8.md (DESIGN CHOICE). A changed end_tolerance that waits for the channel's next start (R3) is in force from
the reset on: no held one survives it (R27 and R198 do not say; notes/assumptions/71.md, DESIGN CHOICE). -/
def Channel.reset : Channel where
  state         := .idle
  direction     := .dirIn
  profile       := .creep
  target        := .endIn
  pausedFrom    := .starting
  duty          := 0
  dutyHeld      := 0
  position      := 0
  positionKnown := false
  travelled     := 0
  overrun       := 0
  drift         := 0
  contactPos    := none
  heldTolerance := none
  inActive      := false
  outActive     := false
  auxActive     := false
  trpActive     := false
  lastFault     := none
  rampTimer     := none
  stallTimer    := none
  coastTimer    := none
  dirHigh       := false
  eniWait       := none
  enoWait       := none
  auxWait       := none
  lastReport    := none

/-- R35: the live part of an assembly after either reset. -/
def AsmLive.reset : AsmLive where
  summary := .unknown
  settled := false
  engaged := false
  basis   := .none
  skew    := 0
  leader  := none
  paused  := none

/-- R86: the monitor unit after either reset, before step 3. -/
def Monitor.reset : Monitor where
  ign       := { active := false, wait := none }
  pbrk      := { active := false, wait := none }
  lowv      := { active := false, wait := none }
  estp      := { active := false, wait := none }
  lowvDelay := .clear
  counter   := 0
  lastSpeed := 0
  window    := none
  run       := 0
  tripped   := false
  calm      := none
  latches   := Vector.replicate 8 none

/-- R136: the tilt meter after either reset. -/
def TiltMeter.reset : TiltMeter where
  pitch := { valid := false, readings := [], timer := none }
  roll  := { valid := false, readings := [], timer := none }

/-- R152: the leveller after either reset, before step 3. -/
def Leveller.reset : Leveller where
  stance        := .stowed
  residualPitch := 0
  residualRoll  := 0
  freshPitch    := 0
  freshRoll     := 0
  solveTimer    := none
  settleTimer   := none

/-- R155: an entry in a state other than VALID. -/
def DirEntry.plain (st : DirState) : DirEntry where
  state := st
  kind  := none
  count := 0
  tag   := []

/-- R174: the store after either reset, before the scan of step 2. -/
def Store.reset : Store where
  state     := .idle
  op        := none
  halt      := none
  directory := Vector.replicate 32 (DirEntry.plain .empty)
  staging   := List.replicate 64 0#8
  queue     := []

/-- R189: the command port after either reset; SEL is a pin and keeps its level. -/
def Port.reset (selHigh rlsHigh : Bool) : Port where
  assembler := .deselected
  buffer    := []
  answer    := []
  sdo       := none
  selHigh   := selHigh
  word      := 0#16
  mask      := 0xFFFF#16
  rlsHigh   := rlsHigh
  rlsWait   := none

/-- Raw pin levels with every input inactive under the default polarities, the parking brake applied and RLS high
(notes/assumptions/8.md, DESIGN CHOICE: the levels outside are not the part's). -/
def Pins.quiet : Pins where
  chan := Vector.replicate 12 { eni := false, eno := false, aux := false, trp := false }
  ign  := false
  pbrk := true
  lowv := true
  estp := true
  rls  := true

/-- The array as delivered: every byte erased and every unit mark CLOSED (notes/assumptions/7.md, DESIGN CHOICE). -/
def NvArray.blank : NvArray where
  mem   := []
  marks := Vector.replicate 40 false
  draws := 0

/-- Every live record after either reset (R27, R35, R65, R86, R116, R152, R174, R189), with a working setup, an array,
pins, a part state and waiting commands given. -/
def State.afterReset (setup : Setup) (nv : NvArray) (pins : Pins) (selHigh : Bool) (sys : Part) (pending : List Instr) :
    State where
  setup      := setup
  channels   := Vector.replicate 12 Channel.reset
  claims     := Vector.replicate 12 none
  succs      := Vector.replicate 12 none
  asms       := Vector.replicate 8 AsmLive.reset
  holds      := Vector.replicate 32 { gen := 0, hold := none }
  orders     := Vector.replicate 8 { gen := 0, order := none }
  mon        := Monitor.reset
  tilt       := TiltMeter.reset
  lev        := Leveller.reset
  store      := Store.reset
  nv         := nv
  port       := Port.reset selHigh true
  pins       := pins
  sys        := sys
  inFlight   := []
  reconsider := false
  pending    := pending

/-- The part right after a power-on reset (R197): supply applied, RST high, LOADING, start-up step 1 next, a blank array,
no command waiting. -/
def State.reset : State :=
  State.afterReset Setup.default NvArray.blank Pins.quiet true
    { supply := true, rstLow := false, status := .loading, nextStatus := .unconfigured, startUp := .step1 } []

end Sys2Proof.Machine
end

