-- ==== Sys2Proof/Machine/Flags.lean ====
section
/-! DEFINITION. The notice word and ATN (section 9.4). -/
namespace Sys2Proof.Machine

/-- R184: the sixteen flags of the notice word. -/
inductive Flag where
  | orderEnd
  | holdRaised
  | holdClearable
  | holdExpired
  | fault
  | windCaution
  | roadDeployed
  | positionLost
  | spanDrift
  | stanceLost
  | storeDone
  | storeFailed
  | setupLost
  | portError
  | armedExpired
  | lowvSeen
  deriving DecidableEq, Repr

/-- R184: flag n is bit n of the word. -/
def Flag.index : Flag → Nat
  | .orderEnd => 0
  | .holdRaised => 1
  | .holdClearable => 2
  | .holdExpired => 3
  | .fault => 4
  | .windCaution => 5
  | .roadDeployed => 6
  | .positionLost => 7
  | .spanDrift => 8
  | .stanceLost => 9
  | .storeDone => 10
  | .storeFailed => 11
  | .setupLost => 12
  | .portError => 13
  | .armedExpired => 14
  | .lowvSeen => 15

/-- The word with one flag set and no other. -/
def Flag.bit (f : Flag) : Half := BitVec.twoPow 16 f.index

/-- Whether a flag of the notice word is set. -/
def State.flag (s : State) (f : Flag) : Bool := s.port.word.getLsbD f.index

/-- R184: an event sets its flag; setting a set flag leaves it set. -/
def raise (f : Flag) (s : State) : State :=
  { s with port := { s.port with word := s.port.word ||| f.bit } }

/-- R184: raise a flag where a condition holds. -/
def raiseIf (b : Bool) (f : Flag) (s : State) : State := if b then raise f s else s

/-- R187, R198: ATN is pulled low while word and mask share a set flag, and released in reset and without supply. -/
def State.atnLow (s : State) : Bool :=
  s.sys.supply && !s.sys.rstLow && decide (s.port.word &&& s.port.mask ≠ 0#16)

end Sys2Proof.Machine
end

