-- ==== Sys2Proof/Machine/Ops.lean ====
section
/-! DEFINITION. The shared operations over the state: the array's memory, the records by number, handles, and messages. -/
namespace Sys2Proof.Machine

/-! ## The array's memory (R153) -/

/-- What an erased byte reads as (R153). -/
def erasedByte : Byte := 0xFF#8

/-- R153: the size of the array. -/
def arraySize : Nat := 2560

/-- One byte of a memory; an unlisted address reads erased. -/
def Memory.read : Memory → Nat → Byte
  | [], _ => erasedByte
  | (k, v) :: m, a => if k = a then v else Memory.read m a

/-- Write one byte, keeping the canonical form. -/
def Memory.put : Memory → Nat → Byte → Memory
  | [], a, b => if b = erasedByte then [] else [(a, b)]
  | (k, v) :: m, a, b =>
    if a < k then (if b = erasedByte then (k, v) :: m else (a, b) :: (k, v) :: m)
    else if a = k then (if b = erasedByte then m else (a, b) :: m)
    else (k, v) :: Memory.put m a b

/-- The canonical form: addresses strictly rising, no listed byte erased. -/
def Memory.wf : Memory → Bool
  | [] => true
  | (k, v) :: m => decide (v ≠ erasedByte) && m.all (fun x => decide (k < x.1)) && Memory.wf m

/-- Every listed address lies in the array (R153). -/
def Memory.inArray (m : Memory) : Bool := m.all fun x => decide (x.1 < arraySize)

/-- The n bytes from an address on. -/
def Memory.readList (m : Memory) (a : Nat) : Nat → List Byte
  | 0 => []
  | n + 1 => Memory.read m a :: Memory.readList m (a + 1) n

/-- R153: a unit erase sets the bytes of a range to 0xFF. -/
def Memory.erase (m : Memory) (a n : Nat) : Memory := m.filter fun x => decide (x.1 < a ∨ a + n ≤ x.1)

/-- R153: what a byte holds after a program: the byte programmed where it stood erased, a free value otherwise
(notes/assumptions/10.md). -/
def programmedByte (draw a : Nat) (old new : Byte) : Byte :=
  if old = erasedByte then new else Config.overProgrammed draw a old new

/-- R153: a row program writes its bytes from an address on. -/
def Memory.program (m : Memory) (draw a : Nat) : List Byte → Memory
  | [] => m
  | b :: bs => Memory.program (Memory.put m a (programmedByte draw a (Memory.read m a) b)) draw (a + 1) bs

/-- R154: the bytes of a step that a reset or a power loss interrupts: free values (notes/assumptions/10.md). -/
def Memory.interrupt (m : Memory) (draw a : Nat) : List Byte → Memory
  | [] => m
  | b :: bs => Memory.interrupt (Memory.put m a (Config.interrupted draw a (Memory.read m a) b)) draw (a + 1) bs

/-- The bytes of a range that did not take a step (notes/assumptions/12.md); a flaw outside the range does nothing. -/
def Memory.flaw (m : Memory) (a n : Nat) : List Host.Cell → Memory
  | [] => m
  | x :: xs => Memory.flaw (if a ≤ x.1 ∧ x.1 < a + n then Memory.put m x.1 x.2 else m) a n xs

/-! ## Records by number -/

/-- The live record of a channel. -/
def State.chan (s : State) (c : Chan) : Channel := s.channels[c]

/-- The setup of a channel. -/
def State.cfg (s : State) (c : Chan) : ChannelSetup := s.setup.channels[c]

/-- The live part of an assembly. -/
def State.asm (s : State) (a : Asm) : AsmLive := s.asms[a]

/-- The setup of an assembly. -/
def State.asmCfg (s : State) (a : Asm) : AsmSetup := s.setup.asms[a]

/-- The assembly a channel belongs to (R30). -/
def State.asmOf (s : State) (c : Chan) : Option Asm := (s.cfg c).assembly

/-- Replace the live record of a channel. -/
def State.setChan (s : State) (c : Chan) (x : Channel) : State := { s with channels := s.channels.set c x }

/-- Replace the live part of an assembly. -/
def State.setAsm (s : State) (a : Asm) (x : AsmLive) : State := { s with asms := s.asms.set a x }

/-- Bind a channel's claim (R92). -/
def State.setClaim (s : State) (c : Chan) (x : Option OrderSlot) : State := { s with claims := s.claims.set c x }

/-- Mark or drop a channel's successor (R92). -/
def State.setSucc (s : State) (c : Chan) (x : Option OrderSlot) : State := { s with succs := s.succs.set c x }

/-- The order in a slot. -/
def State.order (s : State) (k : OrderSlot) : Option Order := s.orders[k].order

/-- Write the order of a slot; the generation stays. -/
def State.setOrder (s : State) (k : OrderSlot) (o : Order) : State :=
  { s with orders := s.orders.set k { gen := s.orders[k].gen, order := some o } }

/-- Change the order of a slot, if there is one. -/
def State.modOrder (s : State) (k : OrderSlot) (f : Order → Order) : State :=
  match s.order k with
  | some o => s.setOrder k (f o)
  | none => s

/-- R88: free a slot of the order table and step its generation, from 31 back to 0. -/
def State.freeOrder (s : State) (k : OrderSlot) : State :=
  { s with orders := s.orders.set k { gen := (s.orders[k].gen + 1) % 32, order := none } }

/-- The hold in a slot. -/
def State.hold (s : State) (h : HoldSlot) : Option Hold := s.holds[h].hold

/-- Write the hold of a slot; the generation stays. -/
def State.setHold (s : State) (h : HoldSlot) (x : Hold) : State :=
  { s with holds := s.holds.set h { gen := s.holds[h].gen, hold := some x } }

/-- R49: free a slot of the hold table and step its generation, from 7 back to 0. -/
def State.freeHold (s : State) (h : HoldSlot) : State :=
  { s with holds := s.holds.set h { gen := (s.holds[h].gen + 1) % 8, hold := none } }

/-! ## The numbers of each table, in order -/

/-- The twelve channels. -/
def allChans : List Chan := [0, 1, 2, 3, 4, 5, 6, 7, 8, 9, 10, 11]

/-- The eight assemblies. -/
def allAsms : List Asm := [0, 1, 2, 3, 4, 5, 6, 7]

/-- The eight order slots. -/
def allOrders : List OrderSlot := [0, 1, 2, 3, 4, 5, 6, 7]

/-- R87: the party slots of the order table. -/
def partyOrders : List OrderSlot := [0, 1, 2, 3, 4, 5]

/-- R87: the monitor slots of the order table. -/
def monitorOrders : List OrderSlot := [6, 7]

/-- R48: the monitor slots of the hold table. -/
def monitorHolds : List HoldSlot := [0, 1, 2, 3, 4, 5, 6, 7, 8, 9, 10, 11, 12, 13, 14, 15, 16, 17, 18, 19]

/-- R48: the party slots of the hold table. -/
def partyHolds : List HoldSlot := [20, 21, 22, 23, 24, 25, 26, 27, 28, 29, 30, 31]

/-- The 32 slots of the hold table. -/
def allHolds : List HoldSlot := monitorHolds ++ partyHolds

/-- The 32 profile slots. -/
def allProfiles : List ProfileSlot := allHolds

/-! ## Handles (R49, R88) -/

/-- R88: the handle of the order in a slot: the slot plus 8 times the generation. -/
def State.orderHandle (s : State) (k : OrderSlot) : Byte := BitVec.ofNat 8 (k.val + 8 * s.orders[k].gen)

/-- R49: the handle of the hold in a slot: the slot plus 32 times the generation. -/
def State.holdHandle (s : State) (h : HoldSlot) : Byte := BitVec.ofNat 8 (h.val + 32 * s.holds[h].gen)

/-- R88: the slot an order handle names, if the order is found. -/
def State.findOrder (s : State) (h : Byte) : Option OrderSlot :=
  let k : OrderSlot := ⟨h.toNat % 8, Nat.mod_lt _ (by decide)⟩
  if (s.order k).isSome && decide (s.orders[k].gen = h.toNat / 8) then some k else none

/-- R49: the slot a hold handle names, if the hold is found. -/
def State.findHold (s : State) (h : Byte) : Option HoldSlot :=
  let k : HoldSlot := ⟨h.toNat % 32, Nat.mod_lt _ (by decide)⟩
  if (s.hold k).isSome && decide (s.holds[k].gen = h.toNat / 32) then some k else none

/-! ## States of channels and orders -/

/-- Section 1.4: the pursuing states. -/
def ChState.pursuing : ChState → Bool
  | .starting | .running | .approach | .paused => true
  | .idle | .easing => false

/-- Section 1.4: the driven states, in which DRV is on. -/
def ChState.driven : ChState → Bool
  | .starting | .running | .approach | .easing => true
  | .idle | .paused => false

/-- The states in which a channel drives toward its target (R43). -/
def ChState.driving : ChState → Bool
  | .starting | .running | .approach => true
  | .idle | .paused | .easing => false

/-- R4: the DRV output of a channel, as its duty; off in IDLE and PAUSED. -/
def Channel.drv (ch : Channel) : Nat := if ch.state.driven then ch.duty else 0

/-- R91: the live states of an order. -/
def OrderState.live : OrderState → Bool
  | .loading | .armed | .blocked | .running | .easing => true
  | .done | .cancelled | .stopped | .failed | .superseded | .expired => false

/-- Whether a slot holds a live order. -/
def State.liveAt (s : State) (k : OrderSlot) : Bool :=
  match s.order k with
  | some o => o.state.live
  | none => false

/-! ## When the part takes events -/

/-- R198: the port answers while supply stands and RST is high. -/
def State.awake (s : State) : Bool := s.sys.supply && !s.sys.rstLow

/-- R197, R198: inputs, counts and timers are taken from READY on. -/
def State.up (s : State) : Bool := s.awake && decide (s.sys.status ≠ .loading)

/-- Do something only where a condition holds. -/
def when' (b : Bool) (f : State → State) (s : State) : State := if b then f s else s

/-! ## Messages -/

/-- Send a message to another block. -/
def send (m : Msg) (s : State) : State := { s with inFlight := s.inFlight ++ [m] }

/-- Send several messages, in order. -/
def sendAll (ms : List Msg) (s : State) : State := { s with inFlight := s.inFlight ++ ms }

/-- Take the oldest message that meets a test out of those in flight. -/
def takeFirst (p : Msg → Bool) : List Msg → Option (Msg × List Msg)
  | [] => none
  | m :: ms =>
    if p m then some (m, ms)
    else match takeFirst p ms with
      | some (x, rest) => some (x, m :: rest)
      | none => none

/-- Drop the oldest message equal to a given one, if there is one. -/
def State.unsend (s : State) (m : Msg) : State := { s with inFlight := s.inFlight.erase m }

/-- Ask for the BLOCKED wind orders to be reconsidered within this action (R56, R92, R114). -/
def wantReconsider (s : State) : State := { s with reconsider := true }

/-- Apply a state change for each element of a list, in order. -/
def forAll {α : Type} (xs : List α) (f : α → State → State) (s : State) : State :=
  xs.foldl (fun s x => f x s) s

end Sys2Proof.Machine
end

