-- ==== Sys2Proof/Machine/Operands.lean ====
section
/-! DEFINITION. Coded values and byte order (R199), and the argument forms of the requests (R200): what each byte of a
request stands for, and which values lie outside their range or set. -/
namespace Sys2Proof.Machine

/-! ## Bytes and numbers -/

/-- A number as one byte. -/
def byte (n : Nat) : Byte := BitVec.ofNat 8 n

/-- R199: a number as two bytes, low byte first. -/
def le16 (n : Nat) : List Byte := [BitVec.ofNat 8 n, BitVec.ofNat 8 (n / 256)]

/-- R199: the number two bytes hold, low byte first. -/
def un16 (lo hi : Byte) : Nat := lo.toNat + 256 * hi.toNat

/-- R199: the signed number two bytes hold. -/
def sx16 (lo hi : Byte) : Int := (BitVec.ofNat 16 (un16 lo hi)).toInt

/-- R199, R201: a signed number as two bytes; a free value where it does not fit (notes/assumptions/11.md). -/
def le16s (z : Int) : List Byte :=
  if -32768 ≤ z ∧ z ≤ 32767 then le16 (BitVec.ofInt 16 z).toNat else le16 (Config.wideField z).toNat

/-- R199: yes and no, set and clear. -/
def bit (b : Bool) : Byte := if b then 1#8 else 0#8

/-- R199: a yes/no byte; above 1 it is outside its set. -/
def boolOf (b : Byte) : Option Bool :=
  if b = 0#8 then some false else if b = 1#8 then some true else none

/-- A channel number, 0 to 11. -/
def chanOf (b : Byte) : Option Chan := if h : b.toNat < 12 then some ⟨b.toNat, h⟩ else none

/-- An assembly number, 0 to 7. -/
def asmOfByte (b : Byte) : Option Asm := if h : b.toNat < 8 then some ⟨b.toNat, h⟩ else none

/-- A profile slot, 0 to 31. -/
def profileSlotOf (b : Byte) : Option ProfileSlot := if h : b.toNat < 32 then some ⟨b.toNat, h⟩ else none

/-- Several decodings, all or none. -/
def decodeAll {α : Type} (f : Byte → Option α) : List Byte → Option (List α)
  | [] => some []
  | b :: bs =>
    match f b, decodeAll f bs with
    | some x, some xs => some (x :: xs)
    | _, _ => none

/-- Keep a value only where a condition holds. -/
def keepIf {α : Type} (b : Bool) (x : α) : Option α := if b then some x else none

/-- The assemblies of a mask, in ascending order. -/
def maskAsms (m : BitVec 8) : List Asm := allAsms.filter fun a => m.getLsbD a.val

/-- The mask of one assembly. -/
def asmBit (a : Asm) : BitVec 8 := BitVec.twoPow 8 a.val

/-- Every number from `lo` to `hi`, both ends included (section 6 of the introduction). -/
def within (lo hi n : Nat) : Bool := decide (lo ≤ n ∧ n ≤ hi)

/-! ## Coded values (R199) -/

def Dir.code : Dir → Byte
  | .dirIn => 0
  | .dirOut => 1

def Profile.code : Profile → Byte
  | .creep => 0
  | .run => 1
  | .ramped => 2

def profileOf (b : Byte) : Option Profile :=
  if b = 0#8 then some .creep else if b = 1#8 then some .run else if b = 2#8 then some .ramped else none

def ChState.code : ChState → Byte
  | .idle => 0
  | .starting => 1
  | .running => 2
  | .approach => 3
  | .paused => 4
  | .easing => 5

def PausedFrom.code : PausedFrom → Byte
  | .starting => 1
  | .running => 2
  | .approach => 3

def Target.code : Target → Byte
  | .at _ => 0
  | .endIn => 1
  | .endOut => 2
  | .distance _ => 3

def EndMode.code : EndMode → Byte
  | .sensor => 0
  | .stall => 1

def endModeOf (b : Byte) : Option EndMode :=
  if b = 0#8 then some .sensor else if b = 1#8 then some .stall else none

def Polarity.code : Polarity → Byte
  | .activeHigh => 0
  | .activeLow => 1

def polarityOf (b : Byte) : Option Polarity :=
  if b = 0#8 then some .activeHigh else if b = 1#8 then some .activeLow else none

def FaultKind.code : FaultKind → Byte
  | .stall => 1
  | .trip => 2
  | .endMissing => 3
  | .sensorConflict => 4
  | .skew => 5
  | .lostContact => 6

def faultCode : Option FaultKind → Byte
  | none => 0
  | some k => k.code

def AsmKind.code : AsmKind → Byte
  | .none => 0
  | .slide => 1
  | .stance => 2
  | .awning => 3

def asmKindOf (b : Byte) : Option AsmKind :=
  if b = 0#8 then some .none else if b = 1#8 then some .slide else if b = 2#8 then some .stance
  else if b = 3#8 then some .awning else none

/-- R201: the role of a channel by the kind of its assembly. -/
def AsmKind.role : AsmKind → Byte
  | .none => 0
  | .slide => 1
  | .stance => 2
  | .awning => 3

def Summary.code : Summary → Byte
  | .unknown => 0
  | .atIn => 1
  | .atOut => 2
  | .between => 3

def Basis.code : Basis → Byte
  | .none => 0
  | .position => 1
  | .travelled => 2

def sideCode : Option Side → Byte
  | none => 0
  | some .first => 1
  | some .second => 2

def HoldState.code : HoldState → Byte
  | .active => 1
  | .pendingClear => 2

def Cause.code : Cause → Byte
  | .party => 0
  | .road => 1
  | .lowv => 2
  | .estop => 3
  | .wind => 4
  | .unset => 5
  | .slidesOut => 6
  | .sweep => 7
  | .fault => 8

def Blocks.code : Blocks → Byte
  | .extend => 1
  | .retract => 2
  | .both => 3

def blocksOf (b : Byte) : Option Blocks :=
  if b = 1#8 then some .extend else if b = 2#8 then some .retract else if b = 3#8 then some .both else none

def Style.code : Style → Byte
  | .cut => 0
  | .ease => 1

def styleOf (b : Byte) : Option Style :=
  if b = 0#8 then some .cut else if b = 1#8 then some .ease else none

def Owner.code : Owner → Byte
  | .party p => byte p
  | .monitor => 0xFF#8

def OrderKind.code : OrderKind → Byte
  | .travel => 0
  | .jog => 1
  | .level => 2
  | .stow => 3
  | .recall => 4

def OrderTarget.code : OrderTarget → Byte
  | .inn => 0
  | .out => 1
  | .at _ => 2

/-- The position an order target carries; 0 for IN and OUT. -/
def OrderTarget.position : OrderTarget → Nat
  | .inn => 0
  | .out => 0
  | .at p => p

/-- R200: a target of kind IN or OUT carries a position that is not read. -/
def orderTargetOf (kind : Byte) (p : Nat) : Option OrderTarget :=
  if kind = 0#8 then some .inn else if kind = 1#8 then some .out else if kind = 2#8 then some (.at p) else none

def OrderState.code : OrderState → Byte
  | .loading => 1
  | .armed => 2
  | .blocked => 3
  | .running => 4
  | .easing => 5
  | .done => 6
  | .cancelled => 7
  | .stopped => 8
  | .failed => 9
  | .superseded => 10
  | .expired => 11

def Reason.code : Reason → Byte
  | .hold => 1
  | .stopAll => 2
  | .stall => 3
  | .trip => 4
  | .skew => 5
  | .endMissing => 6
  | .sensorConflict => 7
  | .lostContact => 8
  | .noGround => 9
  | .outOfStroke => 10
  | .notLevel => 11
  | .noTilt => 12
  | .profileInvalid => 13
  | .profileMismatch => 14
  | .claimed => 15

def reasonCode : Option Reason → Byte
  | none => 0
  | some r => r.code

/-- The result reason of an order that a fault failed (R109). -/
def FaultKind.reason : FaultKind → Reason
  | .stall => .stall
  | .trip => .trip
  | .endMissing => .endMissing
  | .sensorConflict => .sensorConflict
  | .skew => .skew
  | .lostContact => .lostContact

def StartMode.code : StartMode → Byte
  | .now => 0
  | .armed => 1

def startModeOf (b : Byte) : Option StartMode :=
  if b = 0#8 then some .now else if b = 1#8 then some .armed else none

def EntryClaim.code : EntryClaim → Byte
  | .held => 0
  | .awaited => 1

def EntryState.code : EntryState → Byte
  | .wait => 0
  | .moving => 1
  | .arrived => 2
  | .halted => 3
  | .faulted => 4

def Stage.code : Stage → Byte
  | .none => 0
  | .reach => 1
  | .solve => 2
  | .lift => 3
  | .settle => 4

def Stance.code : Stance → Byte
  | .stowed => 0
  | .partly => 1
  | .set => 2

def DirState.code : DirState → Byte
  | .empty => 0
  | .valid => 1
  | .invalid => 2
  | .busy => 3

def ProfileKind.code : ProfileKind → Byte
  | .stance => 1
  | .preset => 2

def profileKindOf (b : Byte) : Option ProfileKind :=
  if b = 1#8 then some .stance else if b = 2#8 then some .preset else none

def profileKindCode : Option ProfileKind → Byte
  | none => 0
  | some k => k.code

def Status.code : Status → Byte
  | .loading => 0
  | .configured => 1
  | .unconfigured => 2

def WindWindow.code : WindWindow → Byte
  | .half => 0
  | .one => 1
  | .two => 2

def windWindowOf (b : Byte) : Option WindWindow :=
  if b = 0#8 then some .half else if b = 1#8 then some .one else if b = 2#8 then some .two else none

/-! ## Result codes (R180) -/

/-- R180: the result codes. -/
inductive Result where
  | ok
  | badCheck
  | unknownRequest
  | badArgument
  | notReady
  | notOwner
  | tableFull
  | noSuch
  | claimed
  | held
  | busy
  | wrongWay
  | wrongKind
  | unhomed
  | stillPresent
  | isProtected
  | profileBusy
  | profileInvalid
  | storeBusy
  | notArmed
  | unconfigured
  | notSet
  | profileMismatch
  | empty
  deriving DecidableEq, Repr

/-- R180: the byte of a result. -/
def Result.code : Result → Byte
  | .ok => 0x00
  | .badCheck => 0x01
  | .unknownRequest => 0x02
  | .badArgument => 0x03
  | .notReady => 0x04
  | .notOwner => 0x05
  | .tableFull => 0x06
  | .noSuch => 0x07
  | .claimed => 0x08
  | .held => 0x09
  | .busy => 0x0A
  | .wrongWay => 0x0B
  | .wrongKind => 0x0C
  | .unhomed => 0x0D
  | .stillPresent => 0x0E
  | .isProtected => 0x0F
  | .profileBusy => 0x10
  | .profileInvalid => 0x11
  | .storeBusy => 0x12
  | .notArmed => 0x13
  | .unconfigured => 0x14
  | .notSet => 0x15
  | .profileMismatch => 0x16
  | .empty => 0x17

/-! ## Setup records as bytes (R2, R192 to R195, R201, R203) -/

/-- R1: the ranges of a channel setup; run_duty is not below creep_duty (R2). -/
def ChannelSetup.inRange (x : ChannelSetup) : Bool :=
  decide (x.filter = 0 ∨ x.filter = 2 ∨ x.filter = 5 ∨ x.filter = 10) && within 1 32767 x.span &&
  within 1 2000 x.endWindow && within 1 2000 x.endTolerance && within 5 50 x.creepDuty &&
  within x.creepDuty 100 x.runDuty && within 1 20 x.rampStep && within 0 1000 x.creepIn && within 0 4000 x.approach &&
  within 50 2000 x.stallTime && within 1 32767 x.maxReach

/-- R201: the 29 bytes of offsets 1 to 8 and 10 to 30 of a channel setup record. -/
def encodeChannelSetup (x : ChannelSetup) : List Byte :=
  [bit x.dirInvert, x.inMode.code, x.outMode.code, x.eniLevel.code, x.enoLevel.code, x.auxLevel.code, x.trpLevel.code,
   byte x.filter] ++ le16 x.span ++ le16 x.endWindow ++ le16 x.endTolerance ++
  [byte x.creepDuty, byte x.runDuty, byte x.rampStep] ++ le16 x.creepIn ++ le16 x.approach ++ le16 x.stallTime ++
  le16s x.kPitch ++ le16s x.kRoll ++ le16 x.maxReach

/-- R2: the setup that 29 bytes give, where every value lies in its range and set; assembly is not among them. -/
def decodeChannelSetup : List Byte → Option ChannelSetup
  | [di, im, om, el, ol, al, tl, fi, sp0, sp1, ew0, ew1, et0, et1, cd, rd, rs, ci0, ci1, ap0, ap1, st0, st1, kp0, kp1,
     kr0, kr1, mr0, mr1] =>
    match boolOf di, endModeOf im, endModeOf om, polarityOf el, polarityOf ol, polarityOf al, polarityOf tl with
    | some di, some im, some om, some el, some ol, some al, some tl =>
      let x : ChannelSetup :=
        { assembly := none, dirInvert := di, inMode := im, outMode := om, eniLevel := el, enoLevel := ol, auxLevel := al,
          trpLevel := tl, filter := fi.toNat, span := un16 sp0 sp1, endWindow := un16 ew0 ew1,
          endTolerance := un16 et0 et1, creepDuty := cd.toNat, runDuty := rd.toNat, rampStep := rs.toNat,
          creepIn := un16 ci0 ci1, approach := un16 ap0 ap1, stallTime := un16 st0 st1, kPitch := sx16 kp0 kp1,
          kRoll := sx16 kr0 kr1, maxReach := un16 mr0 mr1 }
      keepIf x.inRange x
    | _, _, _, _, _, _, _ => none
  | _ => none

/-- R29: how many channels a record of each kind may name. -/
def AsmKind.sizeFits : AsmKind → Nat → Bool
  | .none, n => decide (n = 0)
  | .slide, n => within 1 2 n
  | .awning, n => within 1 2 n
  | .stance, n => within 3 6 n

/-- R192 step 1: the field checks of an assembly record. -/
def AsmSetup.inRange (x : AsmSetup) : Bool :=
  decide x.channels.Nodup && x.kind.sizeFits x.channels.length &&
  (!x.needsStance || decide (x.kind = .slide)) && within 10 2000 x.skewTrim &&
  decide (x.skewFault ≤ 4000) && decide (x.skewTrim < x.skewFault)

/-- The record that the bytes of R200 or R203 give, where they pass R192 step 1. -/
def decodeAsmSetup (kind needs tr0 tr1 fa0 fa1 : Byte) (chans : List Byte) : Option AsmSetup :=
  match asmKindOf kind, boolOf needs, decodeAll chanOf chans with
  | some k, some ns, some cs =>
    let x : AsmSetup :=
      { kind := k, channels := cs, needsStance := ns, skewTrim := un16 tr0 tr1, skewFault := un16 fa0 fa1 }
    keepIf x.inRange x
  | _, _, _ => none

/-- R201: six channel slots in list order, unused slots 0xFF. -/
def channelSlots (cs : List Chan) : List Byte :=
  ((cs.map fun c => byte c.val) ++ List.replicate 6 0xFF#8).take 6

/-- R203: the 13 bytes of an assembly record. -/
def encodeAsmSetup (x : AsmSetup) : List Byte :=
  [x.kind.code, bit x.needsStance] ++ le16 x.skewTrim ++ le16 x.skewFault ++ [byte x.channels.length] ++
  channelSlots x.channels

/-- R193: the leveller setup that five bytes give. -/
def decodeLeveller : List Byte → Option LevellerSetup
  | [tl, mp, se0, se1, db] =>
    let x : LevellerSetup :=
      { tolerance := tl.toNat, maxPasses := mp.toNat, settle := un16 se0 se1, deadband := db.toNat }
    keepIf (within 5 100 x.tolerance && within 1 5 x.maxPasses && within 500 10000 x.settle &&
      decide (x.deadband ≤ 200)) x
  | _ => none

/-- R203: the five bytes of the leveller setup. -/
def encodeLeveller (x : LevellerSetup) : List Byte :=
  [byte x.tolerance, byte x.maxPasses] ++ le16 x.settle ++ [byte x.deadband]

/-- R194: the wind setup that seven bytes give. -/
def decodeWind : List Byte → Option WindSetup
  | [ca, re, tw, ct0, ct1, wi, fa] =>
    match windWindowOf wi with
    | some w =>
      let x : WindSetup :=
        { caution := ca.toNat, retract := re.toNat, tripWindows := tw.toNat, calmTime := un16 ct0 ct1, window := w,
          factor := fa.toNat }
      keepIf (within 5 120 x.caution && within (x.caution + 1) 150 x.retract && within 1 10 x.tripWindows &&
        within 60 1800 x.calmTime && within 1 255 x.factor) x
    | none => none
  | _ => none

/-- R203: the seven bytes of the wind setup. -/
def encodeWind (x : WindSetup) : List Byte :=
  [byte x.caution, byte x.retract, byte x.tripWindows] ++ le16 x.calmTime ++ [x.window.code, byte x.factor]

/-- R195: the lines setup that four bytes give. -/
def decodeLines : List Byte → Option LinesSetup
  | [ig, pb, lo, es] =>
    match polarityOf ig, polarityOf pb, polarityOf lo, polarityOf es with
    | some ig, some pb, some lo, some es => some { ign := ig, pbrk := pb, lowv := lo, estp := es }
    | _, _, _, _ => none
  | _ => none

/-- R203: the four bytes of the lines setup. -/
def encodeLines (x : LinesSetup) : List Byte := [x.ign.code, x.pbrk.code, x.lowv.code, x.estp.code]

/-- R195: a sweep pair from its three bytes. -/
def decodeSweep (de aw sl : Byte) : Option SweepPair :=
  match boolOf de, asmOfByte aw, asmOfByte sl with
  | some d, some a, some s => some { defined := d, awning := a, slide := s }
  | _, _, _ => none

/-- R203: the three bytes of a sweep pair. -/
def encodeSweep (x : SweepPair) : List Byte := [bit x.defined, byte x.awning.val, byte x.slide.val]

end Sys2Proof.Machine
end

