-- ==== Sys2Proof/Machine/Channel.lean ====
section
/-! DEFINITION. What one drive channel does with its commands, counts and timers (chapter 1), as functions of its setup
and its live record. What its neighbours make of it stands in Machine/Assemblies.lean and Machine/Travel.lean. -/
namespace Sys2Proof.Machine

/-- R9: the distance-to-go of a channel, where it has one. -/
def distanceToGo (cfg : ChannelSetup) (ch : Channel) : Option Nat :=
  match ch.target with
  | .at p => if ch.positionKnown then some ((p - ch.position) + (ch.position - p)) else none
  | .endIn => if ch.positionKnown then some ch.position else none
  | .endOut => if ch.positionKnown then some (cfg.span - ch.position) else none
  | .distance d => some (d - ch.travelled)

/-- R9: whether the distance-to-go stands at or below approach. -/
def nearTarget (cfg : ChannelSetup) (ch : Channel) : Bool :=
  match distanceToGo cfg ch with
  | some d => decide (d ≤ cfg.approach)
  | none => false

/-- R8: the ramp interval runs in RUNNING under RAMPED while duty is below run_duty. -/
def rampUpTimer (cfg : ChannelSetup) (profile : Profile) (duty : Nat) : Option Nat :=
  if profile = .ramped ∧ duty < cfg.runDuty then some Config.rampInterval else none

/-- R8: the ramp interval runs in APPROACH under RAMPED while duty is above creep_duty. -/
def rampDownTimer (cfg : ChannelSetup) (profile : Profile) (duty : Nat) : Option Nat :=
  if profile = .ramped ∧ cfg.creepDuty < duty then some Config.rampInterval else none

/-- R8: the duty at entry into RUNNING. -/
def runningDuty (cfg : ChannelSetup) (profile : Profile) (held : Nat) : Nat :=
  match profile with
  | .creep => cfg.creepDuty
  | .run => cfg.runDuty
  | .ramped => held

/-- R8: the duty at entry into APPROACH. -/
def approachDuty (cfg : ChannelSetup) (profile : Profile) (held : Nat) : Nat :=
  match profile with
  | .creep => cfg.creepDuty
  | .run => cfg.creepDuty
  | .ramped => held

/-- R8: enter RUNNING. -/
def enterRunning (cfg : ChannelSetup) (ch : Channel) : Channel :=
  let duty := runningDuty cfg ch.profile ch.duty
  { ch with state := .running, duty := duty, rampTimer := rampUpTimer cfg ch.profile duty }

/-- R8: enter APPROACH. -/
def enterApproach (cfg : ChannelSetup) (ch : Channel) : Channel :=
  let duty := approachDuty cfg ch.profile ch.duty
  { ch with state := .approach, duty := duty, rampTimer := rampDownTimer cfg ch.profile duty }

/-- R9: where STARTING ends: APPROACH at or below approach, RUNNING otherwise. -/
def leaveStarting (cfg : ChannelSetup) (ch : Channel) : Channel :=
  if nearTarget cfg ch then enterApproach cfg ch else enterRunning cfg ch

/-- R10, R19, R20, R23: an end sets the position, makes it known and clears drift. -/
def setPosition (ch : Channel) (p : Nat) : Channel :=
  { ch with position := p, positionKnown := true, drift := 0 }

/-- R25: the position is no longer known; drift and contact_pos go with it. -/
def losePosition (ch : Channel) : Channel :=
  { ch with positionKnown := false, drift := 0, contactPos := none }

/-- R13: entry into IDLE: duty 0, stall timer and ramp interval stopped, the coast window started (R7). -/
def enterIdle (rep : ReportKind) (ch : Channel) : Channel :=
  { ch with
    state := .idle, duty := 0, rampTimer := none, stallTimer := none, coastTimer := some Config.coastWindow,
    lastReport := some rep }

/-- R23: the stall timer in full. -/
def fullStall (cfg : ChannelSetup) : Option Nat := some (cfg.stallTime * Config.ms)

/-! ## Starts and retargets -/

/-- R10 step 3: whether a target is found already reached. -/
def alreadyThere (cfg : ChannelSetup) (ch : Channel) (t : Target) : Bool :=
  match t with
  | .at p => ch.positionKnown && decide (ch.position = p)
  | .endIn => ch.inActive || (decide (cfg.inMode = .stall) && ch.positionKnown && decide (ch.position = 0))
  | .endOut => ch.outActive || (decide (cfg.outMode = .stall) && ch.positionKnown && decide (ch.position = cfg.span))
  | .distance _ => false

/-- R10 step 3: an active end sensor that finds the end reached sets the position first. -/
def placeAtEnd (cfg : ChannelSetup) (ch : Channel) (t : Target) : Channel :=
  match t with
  | .endIn => if ch.inActive then setPosition ch 0 else ch
  | .endOut => if ch.outActive then setPosition ch cfg.span else ch
  | .at _ => ch
  | .distance _ => ch

/-- R10: what becomes of a start. -/
inductive StartOutcome where
  | refused
  | arrived
  | fault (k : FaultKind)
  | driving
  deriving DecidableEq, Repr

/-- R4: the level of DIR for a direction. -/
def dirLevel (cfg : ChannelSetup) (d : Dir) : Bool := decide (d = .dirOut) != cfg.dirInvert

/-- R10 step 1: the record as a start sets it; a changed end_tolerance comes into force (R3). -/
def startRecord (cfg : ChannelSetup) (ch : Channel) (d : Dir) (t : Target) (p : Profile) : Channel :=
  { ch with
    coastTimer := none, direction := d, target := t, profile := p, dirHigh := dirLevel cfg d, travelled := 0, overrun := 0,
    heldTolerance := none }

/-- R10: the channel enters STARTING at creep_duty; with creep_in 0 it passes on at once (R9). -/
def enterStarting (cfg : ChannelSetup) (ch : Channel) : Channel :=
  let ch := { ch with
    state := .starting, duty := cfg.creepDuty, lastFault := none, stallTimer := fullStall cfg, rampTimer := none,
    lastReport := none }
  if cfg.creepIn = 0 then leaveStarting cfg ch else ch

/-- R10: a channel takes a start. -/
def startChannel (cfg : ChannelSetup) (ch : Channel) (d : Dir) (t : Target) (p : Profile) : Channel × StartOutcome :=
  if ch.state ≠ .idle then (ch, .refused)
  else
    let ch := startRecord cfg ch d t p
    if ch.trpActive then
      ({ ch with lastFault := some .trip, lastReport := some (.fault .trip) }, .fault .trip)
    else if ch.inActive && ch.outActive then
      ({ ch with lastFault := some .sensorConflict, lastReport := some (.fault .sensorConflict) }, .fault .sensorConflict)
    else if alreadyThere cfg ch t then ({ placeAtEnd cfg ch t with lastReport := some .arrival }, .arrived)
    else (enterStarting cfg ch, .driving)

/-- R11: whether a target lies ahead in the channel's present direction. -/
def liesAhead (ch : Channel) (t : Target) : Bool :=
  match t, ch.direction with
  | .endOut, .dirOut => true
  | .endIn, .dirIn => true
  | .at p, .dirOut => ch.positionKnown && decide (ch.position ≤ p)
  | .at p, .dirIn => ch.positionKnown && decide (p ≤ ch.position)
  | _, _ => false

/-- R11, R8: the duty and the ramp interval after a retarget in RUNNING or APPROACH. -/
def retargetDriving (cfg : ChannelSetup) (ch : Channel) : Channel :=
  let st := if nearTarget cfg ch then ChState.approach
    else if (distanceToGo cfg ch).isSome then ChState.running else ch.state
  let duty := if st = .running then runningDuty cfg ch.profile ch.duty else approachDuty cfg ch.profile ch.duty
  let full := if st = .running then rampUpTimer cfg ch.profile duty else rampDownTimer cfg ch.profile duty
  let timer := if st = ch.state ∧ full.isSome ∧ ch.rampTimer.isSome then ch.rampTimer else full
  { ch with state := st, duty := duty, rampTimer := timer }

/-- R11: a channel takes a retarget; the flag says that it finds the target reached and arrives. An active end sensor that
finds it reached sets the position, as at a start (R10 step 3; notes/assumptions/70.md, DEDUCED). -/
def retargetChannel (cfg : ChannelSetup) (ch : Channel) (t : Target) (p : Profile) : Channel × Bool :=
  if ch.state.pursuing && liesAhead ch t then
    let ch := { ch with target := t, profile := p, overrun := 0 }
    if alreadyThere cfg ch t then (enterIdle .arrival (placeAtEnd cfg ch t), true)
    else match ch.state with
      | .running | .approach => (retargetDriving cfg ch, false)
      | .starting | .paused | .idle | .easing => (ch, false)
  else (ch, false)

/-! ## Pause, resume, ease -/

/-- R12: the record after a pause in a driving state. -/
def pauseRecord (ch : Channel) (pf : PausedFrom) : Channel :=
  { ch with
    state := .paused, pausedFrom := pf, dutyHeld := ch.duty, duty := 0, stallTimer := none, rampTimer := none }

/-- R12: a channel takes a pause. -/
def pauseChannel (ch : Channel) : Channel :=
  match ch.state with
  | .starting => pauseRecord ch .starting
  | .running => pauseRecord ch .running
  | .approach => pauseRecord ch .approach
  | .idle | .paused | .easing => ch

/-- R12: a channel takes a resume. A return to RUNNING that enters APPROACH instead takes the duty of APPROACH
(notes/assumptions/17.md, DEDUCED). -/
def resumeChannel (cfg : ChannelSetup) (ch : Channel) : Channel :=
  if ch.state ≠ .paused then ch
  else
    let ch := { ch with stallTimer := fullStall cfg, rampTimer := none }
    match ch.pausedFrom with
    | .starting =>
      let ch := { ch with state := .starting, duty := cfg.creepDuty }
      if cfg.creepIn ≤ ch.travelled then leaveStarting cfg ch else ch
    | .approach => { ch with state := .approach, duty := cfg.creepDuty }
    | .running =>
      if nearTarget cfg ch then { ch with state := .approach, duty := cfg.creepDuty }
      else
        let duty := runningDuty cfg ch.profile ch.dutyHeld
        { ch with state := .running, duty := duty, rampTimer := rampUpTimer cfg ch.profile duty }

/-- R14: a channel takes an ease; the flag says that it halts. -/
def easeChannel (ch : Channel) : Channel × Bool :=
  match ch.state with
  | .starting | .running | .approach => ({ ch with state := .easing, rampTimer := some Config.rampInterval }, false)
  | .paused => (enterIdle .halt ch, true)
  | .idle | .easing => (ch, false)

/-- R8: the ramp interval of a channel expires; the flag says that an EASING channel's duty reached 0 and it halts. -/
def rampChannel (cfg : ChannelSetup) (ch : Channel) : Channel × Bool :=
  match ch.state with
  | .running =>
    let duty := min (ch.duty + cfg.rampStep) cfg.runDuty
    ({ ch with duty := duty, rampTimer := rampUpTimer cfg ch.profile duty }, false)
  | .approach =>
    let duty := max (ch.duty - cfg.rampStep) cfg.creepDuty
    ({ ch with duty := duty, rampTimer := rampDownTimer cfg ch.profile duty }, false)
  | .easing =>
    if ch.duty ≤ cfg.rampStep then (enterIdle .halt ch, true)
    else ({ ch with duty := ch.duty - cfg.rampStep, rampTimer := some Config.rampInterval }, false)
  | .idle | .starting | .paused => ({ ch with rampTimer := none }, false)

/-! ## Counting -/

/-- R16: one count added to travelled, which stops rising at 65535 (R6). -/
def addTravelled (n : Nat) : Nat := min (n + 1) 65535

/-- R16: whether a count would carry a known position past its clamp. -/
def atClamp (cfg : ChannelSetup) (ch : Channel) : Bool :=
  match ch.direction with
  | .dirOut => decide (cfg.span ≤ ch.position)
  | .dirIn => decide (ch.position = 0)

/-- R16: the position after one count in the direction of travel, within the clamp. -/
def movedPosition (cfg : ChannelSetup) (ch : Channel) : Nat :=
  if atClamp cfg ch then ch.position
  else match ch.direction with
    | .dirOut => ch.position + 1
    | .dirIn => ch.position - 1

/-- R16: whether a target is an end. -/
def Target.isEnd : Target → Bool
  | .endIn | .endOut => true
  | .at _ | .distance _ => false

/-- R16: a count in a state other than IDLE moves travelled, the position and overrun, and restarts the stall timer. -/
def countMoving (cfg : ChannelSetup) (ch : Channel) : Channel :=
  let clamped := ch.positionKnown && atClamp cfg ch && ch.state.pursuing && ch.target.isEnd
  { ch with
    travelled := addTravelled ch.travelled,
    position := if ch.positionKnown then movedPosition cfg ch else ch.position,
    overrun := if clamped then ch.overrun + 1 else ch.overrun,
    stallTimer := if ch.state.driven then fullStall cfg else ch.stallTimer }

/-- R17: a coast count. -/
def countCoast (cfg : ChannelSetup) (ch : Channel) : Channel :=
  { ch with
    travelled := addTravelled ch.travelled,
    position := if ch.positionKnown then movedPosition cfg ch else ch.position }

/-- R18: whether one more drift count loses the position. -/
def driftLoses (ch : Channel) : Bool := ch.positionKnown && decide (16 ≤ ch.drift + 1)

/-- R18: a count in IDLE after the coast window. -/
def countDrift (ch : Channel) : Channel :=
  if driftLoses ch then losePosition ch
  else if ch.positionKnown then { ch with drift := ch.drift + 1 }
  else ch

/-- What the tests after a count find (R16). -/
inductive CountOutcome where
  | go (ch : Channel)
  | arrival
  | endMissing
  deriving DecidableEq, Repr

/-- R21: whether the count has met an AT or DISTANCE target. -/
def countArrives (ch : Channel) : Bool :=
  match ch.target with
  | .at p => ch.positionKnown && decide (ch.position = p)
  | .distance d => decide (ch.travelled = d)
  | .endIn | .endOut => false

/-- R22: whether a channel seeking an end has failed to find it. -/
def endNotFound (cfg : ChannelSetup) (ch : Channel) : Bool :=
  ch.target.isEnd &&
    (if ch.positionKnown then decide (cfg.endWindow ≤ ch.overrun)
     else decide (cfg.span + cfg.endWindow ≤ ch.travelled))

/-- R16: the tests after a count in a pursuing state. -/
def countTests (cfg : ChannelSetup) (ch : Channel) : CountOutcome :=
  if countArrives ch then .arrival
  else if endNotFound cfg ch then .endMissing
  else match ch.state with
    | .starting => .go (if cfg.creepIn ≤ ch.travelled then leaveStarting cfg ch else ch)
    | .running => .go (if nearTarget cfg ch then enterApproach cfg ch else ch)
    | .approach | .paused | .idle | .easing => .go ch

/-! ## Ends and stalls -/

/-- R20: the discrepancy an OUT sensor measures against a known position. -/
def outDiscrepancy (cfg : ChannelSetup) (ch : Channel) : Nat :=
  if ch.position < cfg.span then cfg.span - ch.position else ch.overrun

/-- R3, R20: the end_tolerance in force: a changed one waits for the channel's next start. -/
def tolerance (cfg : ChannelSetup) (ch : Channel) : Nat := ch.heldTolerance.getD cfg.endTolerance

/-- R20: whether the discrepancy raises SPAN_DRIFT. -/
def spanDrifts (cfg : ChannelSetup) (ch : Channel) : Bool :=
  ch.positionKnown && decide (tolerance cfg ch < outDiscrepancy cfg ch)

/-- R23: the position of the end at which a stall is an arrival, if it is one. -/
def stallEnd (cfg : ChannelSetup) (ch : Channel) : Option Nat :=
  match ch.target with
  | .endIn =>
    if cfg.inMode = .stall ∧ (ch.positionKnown = false ∨ ch.position ≤ cfg.endWindow) then some 0 else none
  | .endOut =>
    if cfg.outMode = .stall ∧ (ch.positionKnown = false ∨ cfg.span - ch.position ≤ cfg.endWindow) then some cfg.span
    else none
  | .at _ => none
  | .distance _ => none

/-! ## Input levels -/

/-- R5: a pin level after polarity. -/
def activeOf (p : Polarity) (high : Bool) : Bool :=
  match p with
  | .activeHigh => high
  | .activeLow => !high

/-- R5: the pin level that is active or inactive. -/
def levelOf (p : Polarity) (active : Bool) : Bool :=
  match p with
  | .activeHigh => active
  | .activeLow => !active

end Sys2Proof.Machine
end

