-- ==== Sys2Proof/Machine/Holds.lean ====
section
/-! DEFINITION. The hold table (chapter 3): coverage, the stopping of motion, and the operations on holds. -/
namespace Sys2Proof.Machine

/-- R52: whether a hold's blocks includes a direction. -/
def Blocks.includes : Blocks → Dir → Bool
  | .extend, .dirOut => true
  | .extend, .dirIn => false
  | .retract, .dirIn => true
  | .retract, .dirOut => false
  | .both, _ => true

/-- R52: whether a hold blocks a direction on an assembly; PENDING_CLEAR blocks as ACTIVE does. -/
def Hold.covers (h : Hold) (a : Asm) (d : Dir) : Bool := h.scope.getLsbD a.val && h.blocks.includes d

/-- R52: whether a slot of the table blocks a direction on an assembly. -/
def HoldCell.covers (x : HoldCell) (a : Asm) (d : Dir) : Bool :=
  match x.hold with
  | some h => h.covers a d
  | none => false

/-- R52: a coverage question; true is BLOCKED. -/
def State.covered (s : State) (a : Asm) (d : Dir) : Bool := allHolds.any fun h => s.holds[h].covers a d

/-- R52: coverage by the channel's assembly; a channel with no assembly is never covered (R54). -/
def State.blocked (s : State) (c : Chan) (d : Dir) : Bool :=
  match s.asmOf c with
  | some a => s.covered a d
  | none => false

/-! ## Stopping motion (R54) -/

/-- R54: the command a hold's style sends to a channel in a state, moving in a direction the hold blocks. -/
def stopCommand (style : Style) (st : ChState) (c : Chan) : Option Msg :=
  match st, style with
  | .idle, _ => none
  | .easing, .ease => none
  | .easing, .cut => some (.cut c)
  | .starting, .cut | .running, .cut | .approach, .cut | .paused, .cut => some (.cut c)
  | .starting, .ease | .running, .ease | .approach, .ease | .paused, .ease => some (.ease c)

/-- R54: the command a hold sends to a channel when it covers assemblies anew. -/
def State.stopFor (s : State) (h : Hold) (gained : BitVec 8) (c : Chan) : Option Msg :=
  match s.asmOf c with
  | some a =>
    if gained.getLsbD a.val && h.blocks.includes (s.chan c).direction then stopCommand h.style (s.chan c).state c
    else none
  | none => none

/-- R54: the channels a hold commands. -/
def State.commanded (s : State) (h : Hold) (gained : BitVec 8) : List Chan :=
  allChans.filter fun c => (s.stopFor h gained c).isSome

/-- R54: the stop notice for the order of a slot, if the hold commanded a channel it claims. -/
def State.noticeFor (s : State) (slot : HoldSlot) (h : Hold) (cs : List Chan) (k : OrderSlot) : Option Msg :=
  let mine := cs.filter fun c => decide (s.claims[c] = some k)
  if mine.isEmpty then none
  else some (.stop { order := s.orderHandle k, hold := s.holdHandle slot, owner := h.owner, style := h.style,
                     commanded := mine })

/-- R54: a hold stops the channels of the assemblies it covers anew, in ascending channel order, and then the order engine
gets its notices, in slot order (notes/assumptions/63.md, DESIGN CHOICE). -/
def stopMotion (slot : HoldSlot) (h : Hold) (gained : BitVec 8) (s : State) : State :=
  let cs := s.commanded h gained
  sendAll (cs.filterMap (s.stopFor h gained) ++ allOrders.filterMap (s.noticeFor slot h cs)) s

/-! ## Slots -/

/-- R48: the lowest free slot of a range. -/
def State.freeHoldSlot (s : State) (range : List HoldSlot) : Option HoldSlot :=
  range.find? fun h => (s.hold h).isNone

/-- R48: the slot of the monitor hold with a cause and subject. -/
def State.monitorHold (s : State) (cause : Cause) (subject : Option Nat) : Option HoldSlot :=
  monitorHolds.find? fun h =>
    match s.hold h with
    | some x => decide (x.cause = cause ∧ x.subject = subject)
    | none => false

/-- A hold comes to stand in a slot: it stops what it covers (R54), and HOLD_RAISED is raised (R64). -/
def enterHold (slot : HoldSlot) (h : Hold) (s : State) : State :=
  raise .holdRaised (stopMotion slot h h.scope (s.setHold slot h))

/-- R48, R56: a hold goes: its slot is freed, and the BLOCKED wind orders are reconsidered. -/
def removeHold (slot : HoldSlot) (s : State) : State := wantReconsider (s.freeHold slot)

/-! ## Monitor holds (R60 to R62) -/

/-- Chapter 4: what the hold of each cause blocks. -/
def Cause.blocks : Cause → Blocks
  | .road | .wind | .unset => .extend
  | .slidesOut => .retract
  | .lowv | .estop | .sweep | .fault | .party => .both

/-- Chapter 4: the style of the hold of each cause. -/
def Cause.style : Cause → Style
  | .road | .estop | .sweep | .fault => .cut
  | .lowv | .wind | .unset | .slidesOut | .party => .ease

/-- Chapter 4: whether the hold of a cause is latched. -/
def Cause.latched : Cause → Bool
  | .estop | .fault => true
  | .road | .lowv | .wind | .unset | .slidesOut | .sweep | .party => false

/-- R60: the record of a new monitor hold. -/
def newMonitorHold (cause : Cause) (subject : Option Nat) (scope : BitVec 8) (detail : Option FaultKind) : Hold where
  owner   := .monitor
  cause   := cause
  subject := subject
  scope   := scope
  blocks  := cause.blocks
  style   := cause.style
  latched := cause.latched
  state   := .active
  expiry  := none
  detail  := detail

/-- R61: change the scope of a standing hold; what it gains is stopped, what it drops is handed to the order engine. -/
def rescope (slot : HoldSlot) (scope : BitVec 8) (s : State) : State :=
  match s.hold slot with
  | none => s
  | some h =>
    let gained := scope &&& ~~~h.scope
    let dropped := h.scope &&& ~~~scope
    let h' := { h with scope := scope }
    let s := s.setHold slot h'
    let s := if gained = 0#8 then s else raise .holdRaised (stopMotion slot h' gained s)
    if dropped = 0#8 then s else wantReconsider s

/-- R62: a creation that finds its hold standing. -/
def reassert (slot : HoldSlot) (scope : BitVec 8) (detail : Option FaultKind) (s : State) : State :=
  match s.hold slot with
  | none => s
  | some h =>
    let back := h.latched && decide (h.state = .pendingClear)
    let h' := { h with state := if back then .active else h.state, detail := if h.cause = .fault then detail else h.detail }
    rescope slot scope (raiseIf back .holdRaised (s.setHold slot h'))

/-- R60: create a monitor hold, or re-assert the one standing. A monitor slot is always free (R60). -/
def createMonitorHold (cause : Cause) (subject : Option Nat) (scope : BitVec 8) (detail : Option FaultKind) (s : State) :
    State :=
  match s.monitorHold cause subject with
  | some slot => reassert slot scope detail s
  | none =>
    match s.freeHoldSlot monitorHolds with
    | some slot => enterHold slot (newMonitorHold cause subject scope detail) s
    | none => s

/-- R61: mark the cause of a latched hold gone. -/
def markGone (slot : HoldSlot) (s : State) : State :=
  match s.hold slot with
  | none => s
  | some h =>
    if h.state = .active then raise .holdClearable (s.setHold slot { h with state := .pendingClear }) else s

end Sys2Proof.Machine
end

