-- ==== Sys2Proof/Machine/Monitor.lean ====
section
/-! DEFINITION. The evaluations of the monitor unit (chapter 4): for each cause, whether it stands and its scope, and what
the hold table is asked for. -/
namespace Sys2Proof.Machine

/-- The scope of every assembly. -/
def everyAsm : BitVec 8 := 0xFF#8

/-- The mask of the assemblies that meet a test. -/
def scopeOf (p : Asm → Bool) : BitVec 8 := (allAsms.filter p).foldl (fun m a => m ||| BitVec.twoPow 8 a.val) 0#8

/-- R33: settled at AT_IN. -/
def AsmLive.settledIn (x : AsmLive) : Bool := x.settled && decide (x.summary = .atIn)

/-- The stance assembly, if there is one (R29: at most one). -/
def State.stanceAsm (s : State) : Option Asm := allAsms.find? fun a => decide ((s.asmCfg a).kind = .stance)

/-- Whether an assembly is a slide that needs the stance (R28). -/
def State.needsStance (s : State) (a : Asm) : Bool :=
  decide ((s.asmCfg a).kind = .slide) && (s.asmCfg a).needsStance

/-! ## Evaluation (R66) -/

/-- R66: an evaluation of a cause that is not latched, with the scope it finds, none where it does not stand. -/
def evalPlain (cause : Cause) (subject : Option Nat) (want : Option (BitVec 8)) (s : State) : State :=
  match want, s.monitorHold cause subject with
  | some scope, none => createMonitorHold cause subject scope none s
  | some scope, some slot => rescope slot scope s
  | none, some slot => removeHold slot s
  | none, none => s

/-- R66: an evaluation of a latched cause. -/
def evalLatched (cause : Cause) (subject : Option Nat) (scope : BitVec 8) (detail : Option FaultKind) (stands : Bool)
    (s : State) : State :=
  match s.monitorHold cause subject with
  | none => if stands then createMonitorHold cause subject scope detail s else s
  | some slot =>
    match s.hold slot with
    | none => s
    | some h =>
      if stands then (if h.state = .pendingClear then reassert slot scope detail s else s)
      else markGone slot s

/-- R69: the ROAD cause. -/
def State.roadStands (s : State) : Bool := s.mon.ign.active || !s.mon.pbrk.active

/-- R69: whether an assembly in the table is not settled at AT_IN. -/
def State.deployed (s : State) : Bool :=
  allAsms.any fun a => decide ((s.asmCfg a).kind ≠ .none) && !(s.asm a).settledIn

/-- R69: evaluate ROAD; its creation raises ROAD_DEPLOYED where an assembly is out. -/
def evalRoad (s : State) : State :=
  let created := s.roadStands && (s.monitorHold .road none).isNone
  raiseIf (created && s.deployed) .roadDeployed
    (evalPlain .road none (if s.roadStands then some everyAsm else none) s)

/-- R70: the LOWV cause stands in HELD and in OFF_DELAY. -/
def State.lowvStands (s : State) : Bool :=
  match s.mon.lowvDelay with
  | .held | .offDelay _ => true
  | .clear | .onDelay _ => false

/-- R71: evaluate LOWV; its creation raises LOWV_SEEN. -/
def evalLowv (s : State) : State :=
  raiseIf (s.lowvStands && (s.monitorHold .lowv none).isNone) .lowvSeen
    (evalPlain .lowv none (if s.lowvStands then some everyAsm else none) s)

/-- R72: evaluate ESTOP. -/
def evalEstop (s : State) : State := evalLatched .estop none everyAsm none s.mon.estp.active s

/-- R76: the scope of WIND. -/
def State.windScope (s : State) : BitVec 8 := scopeOf fun a => decide ((s.asmCfg a).kind = .awning)

/-- R76: evaluate WIND. -/
def evalWind (s : State) : State :=
  evalPlain .wind none (if s.mon.tripped && decide (s.windScope ≠ 0#8) then some s.windScope else none) s

/-- R79: evaluate UNSET; its scope may be empty. -/
def evalUnset (s : State) : State :=
  evalPlain .unset none
    (if s.stanceAsm.isSome && decide (s.lev.stance ≠ .set) then some (scopeOf s.needsStance) else none) s

/-- R80: evaluate SLIDES_OUT. -/
def evalSlidesOut (s : State) : State :=
  let out := allAsms.any fun a => s.needsStance a && !(s.asm a).settledIn
  evalPlain .slidesOut none
    (match s.stanceAsm with
      | some a => if out then some (BitVec.twoPow 8 a.val) else none
      | none => none) s

/-- R81: whether a pair is live. -/
def State.pairLive (s : State) (p : SweepPair) : Bool :=
  p.defined && decide ((s.asmCfg p.awning).kind = .awning) && decide ((s.asmCfg p.slide).kind = .slide)

/-- R82: the scope of a live pair, none where it is empty. -/
def State.sweepScope (s : State) (p : SweepPair) : Option (BitVec 8) :=
  if !s.pairLive p then none
  else if !(s.asm p.slide).settled then some (BitVec.twoPow 8 p.awning.val)
  else if !(s.asm p.awning).settledIn then some (BitVec.twoPow 8 p.slide.val)
  else none

/-- The four sweep pairs. -/
def allPairs : List (Fin 4) := [0, 1, 2, 3]

/-- R82: evaluate SWEEP for a pair. -/
def evalSweep (p : Fin 4) (s : State) : State := evalPlain .sweep (some p.val) (s.sweepScope s.setup.sweep[p]) s

/-- R67: evaluate SWEEP for every pair that names an assembly. -/
def evalSweepOf (a : Asm) (s : State) : State :=
  forAll allPairs (fun p s => if (s.setup.sweep[p]).awning = a ∨ (s.setup.sweep[p]).slide = a then evalSweep p s else s) s

/-- R84: whether TRP is active on a member. -/
def State.tripStands (s : State) (a : Asm) : Bool := (s.asmCfg a).channels.any fun c => (s.chan c).trpActive

/-- R84: whether both ends are active on a member. -/
def State.conflictStands (s : State) (a : Asm) : Bool :=
  (s.asmCfg a).channels.any fun c => (s.chan c).inActive && (s.chan c).outActive

/-- R84: whether a lasting condition of an assembly stands. -/
def State.faultStands (s : State) (a : Asm) : Bool := s.tripStands a || s.conflictStands a

/-- R83: write the fault latch of an assembly. -/
def setLatch (a : Asm) (k : FaultKind) (s : State) : State :=
  { s with mon := { s.mon with latches := s.mon.latches.set a (some k) } }

/-- R84: evaluate FAULT for an assembly; a hold it creates takes its detail from what stands. -/
def evalFault (a : Asm) (s : State) : State :=
  let fresh := s.faultStands a && (s.monitorHold .fault (some a.val)).isNone
  let s := if fresh then setLatch a (if s.tripStands a then .trip else .sensorConflict) s else s
  evalLatched .fault (some a.val) (BitVec.twoPow 8 a.val) s.mon.latches[a] (s.faultStands a) s

/-- R83: a fault is handed on for an assembly. -/
def faultHanded (a : Asm) (k : FaultKind) (s : State) : State :=
  let s := setLatch a k s
  let s := createMonitorHold .fault (some a.val) (BitVec.twoPow 8 a.val) (some k) s
  if s.faultStands a then s
  else match s.monitorHold .fault (some a.val) with
    | some slot => markGone slot s
    | none => s

/-- R67: an accepted setup change and start-up step 4 evaluate every cause and subject, in an order of the model's
(notes/assumptions/23.md, DESIGN CHOICE). -/
def evalAll (s : State) : State :=
  forAll allAsms evalFault (forAll allPairs evalSweep
    (evalSlidesOut (evalUnset (evalWind (evalEstop (evalLowv (evalRoad s)))))))

/-- R67: a change of an assembly's summary or settled condition: SLIDES_OUT, then SWEEP by ascending pair, then UNSET
(notes/assumptions/23.md, DESIGN CHOICE). -/
def evalAsmChange (a : Asm) (s : State) : State := evalUnset (evalSweepOf a (evalSlidesOut s))

/-- R67: a change of TRP, IN or OUT on a channel that belongs to an assembly. -/
def evalFaultOf (c : Chan) (s : State) : State :=
  match s.asmOf c with
  | some a => evalFault a s
  | none => s

end Sys2Proof.Machine
end

