-- ==== Sys2Proof/Machine/Assemblies.lean ====
section
/-! DEFINITION. The assembly unit (chapter 2): summaries and settling, the stance state they give, and twin sync. -/
namespace Sys2Proof.Machine

/-! ## Summary and settling (R32 to R34) -/

/-- R32: the position summary of an assembly from its members. -/
def State.summaryOf (s : State) (a : Asm) : Summary :=
  let cs := (s.asmCfg a).channels
  if (s.asmCfg a).kind = .none then .unknown
  else if cs.any (fun c => !(s.chan c).positionKnown) then .unknown
  else if cs.all (fun c => decide ((s.chan c).position = 0)) then .atIn
  else if cs.all (fun c => decide ((s.chan c).position = (s.cfg c).span)) then .atOut
  else .between

/-- R33: the settled condition of an assembly from its members. -/
def State.settledOf (s : State) (a : Asm) : Bool :=
  decide ((s.asmCfg a).kind ≠ .none) &&
  (s.asmCfg a).channels.all (fun c => decide ((s.chan c).state = .idle)) &&
  (decide (s.summaryOf a = .atIn) || decide (s.summaryOf a = .atOut))

/-! ## The stance state (R131 to R133) -/

/-- R131: what the stance state is outside SET. -/
def State.stanceBySummary (s : State) : Stance :=
  match s.stanceAsm with
  | none => .stowed
  | some a => if (s.asm a).summary = .atIn then .stowed else .partly

/-- R131: a change of the stance state is handed to the monitor unit. -/
def setStance (x : Stance) (s : State) : State :=
  if s.lev.stance = x then s else evalUnset { s with lev := { s.lev with stance := x } }

/-- R131: outside SET the stance state follows the stance summary. -/
def followStance (s : State) : State := if s.lev.stance = .set then s else setStance s.stanceBySummary s

/-- R133: a SET stance leaves SET; outside SET nothing changes. -/
def leaveSet (s : State) : State := if s.lev.stance = .set then setStance s.stanceBySummary s else s

/-- R34: recompute the summary and the settled condition of an assembly, and hand a change on, a stance's to the leveller
before the monitor unit (notes/assumptions/64.md, DESIGN CHOICE). -/
def refreshAsm (a : Asm) (s : State) : State :=
  let sm := s.summaryOf a
  let st := s.settledOf a
  if (s.asm a).summary = sm ∧ (s.asm a).settled = st then s
  else
    let s := s.setAsm a { s.asm a with summary := sm, settled := st }
    if (s.asmCfg a).kind = .none then s
    else evalAsmChange a (if (s.asmCfg a).kind = .stance then followStance s else s)

/-! ## Twin sync (R40 to R47) -/

/-- R29: the first and second channel of a twin. -/
def AsmSetup.twin (x : AsmSetup) : Option (Chan × Chan) :=
  match x.kind, x.channels with
  | .slide, [c, d] => some (c, d)
  | .awning, [c, d] => some (c, d)
  | _, _ => none

/-- R29: the other channel of a channel's twin. -/
def State.partner (s : State) (c : Chan) : Option Chan :=
  match s.asmOf c with
  | none => none
  | some a =>
    match (s.asmCfg a).twin with
    | some (x, y) => if c = x then some y else if c = y then some x else none
    | none => none

/-- R42: the basis, the skew and the lead of the first channel. -/
def measure (x y : Channel) : Basis × Int × Int :=
  if x.positionKnown && y.positionKnown then
    let skew := (x.position : Int) - y.position
    (.position, skew, match x.direction with
      | .dirOut => skew
      | .dirIn => -skew)
  else
    let skew := (x.travelled : Int) - y.travelled
    (.travelled, skew, skew)

/-- R42 step 4: the leader. -/
def leaderOf (lead : Int) : Option Side := if 0 < lead then some .first else if lead < 0 then some .second else none

/-- The channel on a side of a twin. -/
def Side.pick {α : Type} (x y : α) : Side → α
  | .first => x
  | .second => y

/-- The channel on the other side of a twin. -/
def Side.other {α : Type} (x y : α) : Side → α
  | .first => y
  | .second => x

/-- R41: whether engagement has ended: no side pursues, or the sides are not claimed by one order. -/
def State.pairOver (s : State) (c d : Chan) : Bool :=
  !((s.chan c).state.pursuing || (s.chan d).state.pursuing) || decide (s.claims[c] ≠ s.claims[d]) ||
  (s.claims[c]).isNone

/-- R41: the resume of a paused side left behind by an engagement that ends. -/
def State.leftPaused (s : State) (c d : Chan) : List Msg :=
  (if (s.chan c).state = .paused ∧ (s.chan d).state.pursuing then [Msg.resume c] else []) ++
  (if (s.chan d).state = .paused ∧ (s.chan c).state.pursuing then [Msg.resume d] else [])

/-- R41: the pairing state when engagement ends; skew is kept. -/
def AsmLive.disengage (x : AsmLive) : AsmLive :=
  { x with engaged := false, basis := .none, leader := none, paused := none }

/-- R41: end the engagement of a pair. -/
def endPair (a : Asm) (c d : Chan) (s : State) : State :=
  sendAll (s.leftPaused c d) (s.setAsm a (s.asm a).disengage)

/-- R45: the cuts of a SKEW fault, the pair's first channel before its second (notes/assumptions/63.md, DESIGN CHOICE). -/
def State.skewCuts (s : State) (c d : Chan) : List Msg :=
  [c, d].filterMap fun x => if (s.chan x).state = .idle then none else some (Msg.cut x)

/-- R45: a SKEW fault. The SKEW report stands before the messages of the FAULT hold (notes/assumptions/4.md). -/
def skewFault (a : Asm) (c d : Chan) (s : State) : State :=
  let s := raise .fault (s.setAsm a (s.asm a).disengage)
  let s := match s.claims[c] with
    | some k => send (.skew a (s.orderHandle k)) s
    | none => s
  let s := faultHanded a .skew s
  sendAll (s.skewCuts c d) s

/-- R43: paused is dropped when its channel has entered IDLE or EASING. -/
def State.keptPause (s : State) (c d : Chan) (p : Option Side) : Option Side :=
  match p with
  | some side => if (s.chan (side.pick c d)).state = .idle ∨ (s.chan (side.pick c d)).state = .easing then none else p
  | none => none

/-- R44: whether the paused side is let go. -/
def State.resumes (s : State) (c d : Chan) (cfg : AsmSetup) (x : AsmLive) (side : Side) : Bool :=
  decide (x.skew.natAbs ≤ cfg.skewTrim / 2) || decide (x.leader ≠ some side) ||
  (decide ((s.chan (side.other c d)).state = .idle) &&
    decide ((s.chan (side.other c d)).lastReport = some .arrival))

/-- R44: the side that this measurement lets go, if any. -/
def State.letGo (s : State) (a : Asm) (c d : Chan) : Option Side :=
  match (s.asm a).paused with
  | none => none
  | some side => if s.resumes c d (s.asmCfg a) (s.asm a) side then some side else none

/-- R44: the resume test: a resume to the side that is let go. -/
def resumeTest (a : Asm) (c d : Chan) (go : Option Side) (s : State) : State :=
  match go with
  | none => s
  | some side => send (.resume (side.pick c d)) (s.setAsm a { s.asm a with paused := none })

/-- R43, R44: whether a side counts as driven for the trim test: it is driven, or its resume has just gone. -/
def State.trims (s : State) (c d : Chan) (go : Option Side) (side : Side) : Bool :=
  (s.chan (side.pick c d)).state.driving || decide (go = some side)

/-- R43: the trim test, after a resume test that has let a side go or none. -/
def trimTest (a : Asm) (c d : Chan) (go : Option Side) (s : State) : State :=
  if s.trims c d go .first && s.trims c d go .second && decide ((s.asmCfg a).skewTrim < (s.asm a).skew.natAbs) &&
      (s.asm a).paused.isNone then
    match (s.asm a).leader with
    | some side => send (.pause (side.pick c d)) (s.setAsm a { s.asm a with paused := some side })
    | none => s
  else s

/-- R42: one measurement of an engaged pair, and the tests after it. -/
def measurePair (a : Asm) (c d : Chan) (s : State) : State :=
  let (basis, skew, lead) := measure (s.chan c) (s.chan d)
  let x := { s.asm a with
    basis := basis, skew := skew, leader := leaderOf lead, paused := s.keptPause c d (s.asm a).paused }
  let s := s.setAsm a x
  if (s.asmCfg a).skewFault < skew.natAbs then skewFault a c d s
  else
    let go := s.letGo a c d
    trimTest a c d go (resumeTest a c d go s)

/-- R41, R42: what the assembly unit does with an event of a channel of a pair. -/
def pairUpdate (a : Asm) (s : State) : State :=
  if (s.asm a).engaged then
    match (s.asmCfg a).twin with
    | none => s
    | some (c, d) => if s.pairOver c d then endPair a c d s else measurePair a c d s
  else s

/-- R41: an engaged pair whose claims have come to differ, or have gone, is engaged no more. (An order that ends frees claims
on channels that are IDLE, whose pair is engaged no more by then.) -/
def partPair (a : Asm) (s : State) : State :=
  if (s.asm a).engaged then
    match (s.asmCfg a).twin with
    | none => s
    | some (c, d) =>
      if s.claims[c] ≠ s.claims[d] ∨ s.claims[c] = none then endPair a c d s else s
  else s

/-- R41: the claim of a channel has changed: an engagement of its pair may end by it. -/
def partTwin (c : Chan) (s : State) : State :=
  match s.asmOf c with
  | some a => partPair a s
  | none => s

/-- R41: a pair becomes engaged. -/
def engage (a : Asm) (s : State) : State :=
  s.setAsm a { s.asm a with engaged := true, basis := .none, skew := 0, leader := none, paused := none }

/-! ## Handing on -/

/-- R7, R34, R42: what a channel's neighbours take of a change of its record: the leveller the leaving of IDLE by a jack
first, then the assembly unit the rest, the summary before the measurement of a pair (notes/assumptions/65.md, DESIGN
CHOICE). -/
def handOn (c : Chan) (wasIdle : Bool) (s : State) : State :=
  match s.asmOf c with
  | none => s
  | some a =>
    let left := wasIdle && decide ((s.chan c).state ≠ .idle) && decide ((s.asmCfg a).kind = .stance)
    pairUpdate a (refreshAsm a (when' left leaveSet s))

/-- Write a channel's record and hand the change on. -/
def updChan (c : Chan) (x : Channel) (s : State) : State :=
  handOn c (decide ((s.chan c).state = .idle)) (s.setChan c x)

end Sys2Proof.Machine
end

