-- ==== Sys2Proof/Machine/Travel.lean ====
section
/-! DEFINITION. What happens in the part when a drive channel takes an input, a count, a timer or a command (chapter 1):
the channel's own change, its report, and what it hands on. -/
namespace Sys2Proof.Machine

/-- R15: the position that a report carries: an arrival's or a halt's, where it is known. -/
def Channel.reportPosition (ch : Channel) (kind : ReportKind) : Option Nat :=
  match kind with
  | .arrival | .halt => if ch.positionKnown then some ch.position else none
  | .fault _ => none

/-- R15, R19, R20: the end that a report names: an arrival's target where that is an end, otherwise the end whose sensor
the arrival met (notes/assumptions/37.md). -/
def Channel.reportEnd (ch : Channel) (kind : ReportKind) (met : Option End) : Option End :=
  match kind, ch.target with
  | .arrival, .endIn => some .inEnd
  | .arrival, .endOut => some .outEnd
  | .arrival, .at _ | .arrival, .distance _ => met
  | .halt, _ | .fault _, _ => none

/-- R15: the report of a channel to the order of a slot. -/
def State.reportTo (s : State) (c : Chan) (kind : ReportKind) (met : Option End) (k : OrderSlot) : Report where
  chan     := c
  kind     := kind
  order    := s.orderHandle k
  position := (s.chan c).reportPosition kind
  atEnd    := (s.chan c).reportEnd kind met

/-- R15: a channel's report to the order that claims it (R98). -/
def emitReport (c : Chan) (kind : ReportKind) (met : Option End) (s : State) : State :=
  match s.claims[c] with
  | some k => send (.report (s.reportTo c kind met k)) s
  | none => s

/-- R13, R15: a motion ends with a report, at an end whose sensor it has met or not: the channel enters IDLE, and its change
is handed on, after the report (notes/assumptions/4.md). -/
def endMotionAt (c : Chan) (rep : ReportKind) (met : Option End) (s : State) : State :=
  handOn c false (emitReport c rep met (s.setChan c (enterIdle rep (s.chan c))))

/-- R13, R15: a motion ends with a report that names no sensor. -/
def endMotion (c : Chan) (rep : ReportKind) (s : State) : State := endMotionAt c rep none s

/-- R26 step 4: a channel's fault is handed to the monitor unit, if the channel belongs to an assembly. -/
def faultToMonitor (c : Chan) (k : FaultKind) (s : State) : State :=
  match s.asmOf c with
  | some a => faultHanded a k s
  | none => s

/-- R26: the record of a channel that takes a fault. -/
def faultRecord (k : FaultKind) (ch : Channel) : Channel :=
  if ch.state = .idle then { ch with lastFault := some k } else enterIdle (.fault k) { ch with lastFault := some k }

/-- R26: a channel takes a fault. The report stands before the messages of the FAULT hold (notes/assumptions/4.md), and the
FAULT hold is made before what follows from the entry into IDLE is evaluated (R34, R83; notes/assumptions/66.md, DESIGN
CHOICE). -/
def channelFault (c : Chan) (k : FaultKind) (s : State) : State :=
  let moving := decide ((s.chan c).state ≠ .idle)
  let s := raise .fault (s.setChan c (faultRecord k (s.chan c)))
  handOn c false (faultToMonitor c k (when' moving (emitReport c (.fault k) none) s))

/-- R25: a channel takes SENSOR_CONFLICT. The loss of its position is handed on before the fault
(notes/assumptions/66.md, DESIGN CHOICE). -/
def sensorConflict (c : Chan) (s : State) : State :=
  channelFault c .sensorConflict (updChan c (losePosition (s.chan c)) s)

/-! ## Inputs (R5, R19, R20, R24, R25) -/

/-- R6: the end that lies in a direction. -/
def Dir.theEnd : Dir → End
  | .dirIn => .inEnd
  | .dirOut => .outEnd

/-- R19, R20: what follows a position set at the end that lies in a direction. -/
def endMet (c : Chan) (d : Dir) (s : State) : State :=
  if (s.chan c).direction ≠ d then s
  else if (s.chan c).state.pursuing then endMotionAt c .arrival (some d.theEnd) s
  else if (s.chan c).state = .easing then endMotion c .halt s
  else s

/-- R19: IN becomes active. The position is handed on before what the end does to the motion
(notes/assumptions/67.md, DEDUCED). -/
def takeIn (c : Chan) (s : State) : State :=
  let s := s.setChan c { s.chan c with inActive := true }
  evalFaultOf c
    (if (s.chan c).outActive then sensorConflict c s
     else endMet c .dirIn (updChan c (setPosition (s.chan c) 0) s))

/-- R20: OUT becomes active. The position is handed on before what the end does to the motion
(notes/assumptions/67.md, DEDUCED). -/
def takeOut (c : Chan) (s : State) : State :=
  let s := s.setChan c { s.chan c with outActive := true }
  evalFaultOf c
    (if (s.chan c).inActive then sensorConflict c s
     else
      endMet c .dirOut
        (updChan c (setPosition (s.chan c) (s.cfg c).span) (raiseIf (spanDrifts (s.cfg c) (s.chan c)) .spanDrift s)))

/-- R5, R25: IN or OUT becomes inactive. -/
def takeEndGone (c : Chan) (e : End) (s : State) : State :=
  let ch := s.chan c
  evalFaultOf c
    (s.setChan c (match e with
      | .inEnd => { ch with inActive := false }
      | .outEnd => { ch with outActive := false }))

/-- R24: TRP becomes active. -/
def takeTrp (c : Chan) (s : State) : State :=
  evalFaultOf c (channelFault c .trip (s.setChan c { s.chan c with trpActive := true }))

/-- R24: TRP becomes inactive. -/
def takeTrpGone (c : Chan) (s : State) : State :=
  evalFaultOf c (s.setChan c { s.chan c with trpActive := false })

/-! ## Counts (R16 to R18, R21, R22) -/

/-- R16: the tests after a count in a pursuing state. -/
def afterCount (c : Chan) (s : State) : State :=
  match countTests (s.cfg c) (s.chan c) with
  | .arrival => endMotion c .arrival s
  | .endMissing => channelFault c .endMissing s
  | .go ch => if ch = s.chan c then s else updChan c ch s

/-- R16 to R18: a channel takes a count. In motion the count is handed on before its tests
(notes/assumptions/67.md, DESIGN CHOICE). -/
def takeCount (c : Chan) (s : State) : State :=
  let ch := s.chan c
  if ch.state = .idle then
    if ch.coastTimer.isSome then updChan c (countCoast (s.cfg c) ch) s
    else raiseIf (driftLoses ch) .positionLost (updChan c (countDrift ch) s)
  else
    let s := updChan c (countMoving (s.cfg c) ch) s
    if (s.chan c).state.pursuing then afterCount c s else s

/-! ## Timers (R8, R23) -/

/-- R23: the stall timer of a channel expires. A stall-end sets the position and ends the motion before either is handed
on, so that a pair whose last channel it is ends its engagement without another measurement (R34, R42;
notes/assumptions/31.md, DEDUCED). -/
def takeStall (c : Chan) (s : State) : State :=
  let ch := s.chan c
  match ch.state with
  | .starting | .running | .approach =>
    match stallEnd (s.cfg c) ch with
    | some p => endMotion c .arrival (s.setChan c (setPosition ch p))
    | none => channelFault c .stall s
  | .easing => endMotion c .halt s
  | .idle | .paused => s

/-- Write a channel's new record; where it halts, it reports, and the change is handed on. -/
def stepChan (c : Chan) (r : Channel × Bool) (s : State) : State :=
  handOn c (decide ((s.chan c).state = .idle)) (when' r.2 (emitReport c .halt none) (s.setChan c r.1))

/-- R8: the ramp interval of a channel expires. -/
def takeRamp (c : Chan) (s : State) : State := stepChan c (rampChannel (s.cfg c) (s.chan c)) s

/-! ## Commands of other blocks (R12 to R14) -/

/-- R12: a pause. -/
def takePause (c : Chan) (s : State) : State := updChan c (pauseChannel (s.chan c)) s

/-- R12: a resume. -/
def takeResume (c : Chan) (s : State) : State := updChan c (resumeChannel (s.cfg c) (s.chan c)) s

/-- R13: a cut sent by another block. -/
def takeCut (c : Chan) (s : State) : State := if (s.chan c).state = .idle then s else endMotion c .halt s

/-- R14: an ease. -/
def takeEase (c : Chan) (s : State) : State := stepChan c (easeChannel (s.chan c)) s

end Sys2Proof.Machine
end

