-- ==== Sys2Proof/Machine/Orders.lean ====
section
/-! DEFINITION. The life all orders share (chapter 5): ending, easing toward a result, and the starting procedure. -/
namespace Sys2Proof.Machine

/-! ## Records -/

/-- Change every entry of an order. -/
def Order.mapEntries (o : Order) (f : Entry → Entry) : Order := { o with entries := o.entries.map f }

/-- Change an order's entry for a channel. -/
def Order.modEntry (o : Order) (c : Chan) (f : Entry → Entry) : Order :=
  o.mapEntries fun e => if e.chan = c then f e else e

/-- An order's entry for a channel. -/
def Order.entry (o : Order) (c : Chan) : Option Entry := o.entries.find? fun e => decide (e.chan = c)

/-- Whether an entry is MOVING. -/
def Order.anyMoving (o : Order) : Bool := o.entries.any fun e => decide (e.state = .moving)

/-- Whether every entry is ARRIVED. -/
def Order.allArrived (o : Order) : Bool := o.entries.all fun e => decide (e.state = .arrived)

/-- Whether every claim of an order's entries is HELD. -/
def Order.allHeld (o : Order) : Bool := o.entries.all fun e => decide (e.claim = .held)

/-- R90: an entry whose order stops before the entry was started. -/
def Entry.stopped (e : Entry) : Entry := if e.state = .wait then { e with state := .halted } else e

/-- R138, R149: the orders the leveller takes through stages. -/
def Order.staged (o : Order) : Bool :=
  match o.kind with
  | .level => true
  | .recall => decide (o.profileKind = some .stance)
  | .travel | .jog | .stow => false

/-! ## Claims (R92) -/

/-- Whether an order claims a channel. -/
def State.claimsAny (s : State) (k : OrderSlot) : Bool := allChans.any fun c => decide (s.claims[c] = some k)

/-- R111 step 2: free every claim of an order. -/
def freeClaims (k : OrderSlot) (s : State) : State :=
  forAll allChans (fun c s => if s.claims[c] = some k then s.setClaim c none else s) s

/-- R111 step 2: drop every successor mark of an order. -/
def dropSuccs (k : OrderSlot) (s : State) : State :=
  forAll allChans (fun c s => if s.succs[c] = some k then s.setSucc c none else s) s

/-- R111 step 3: remove the queued reads of a handle; the pin drops with them (R157). -/
def dropReads (handle : Byte) (s : State) : State :=
  { s with store := { s.store with queue := s.store.queue.filter fun r => decide (r.order ≠ handle) } }

/-! ## Final states (R111) -/

/-- R111: the record of an order in a final state; entries that were not started become HALTED (R90). -/
def Order.final (o : Order) (st : OrderState) (r : Option Reason) : Order :=
  { o.mapEntries Entry.stopped with state := st, reason := r, pending := none, armed := none, linger := some Config.linger }

/-- R141, R144: the timers of the stage a leveller order was in stop when it ends. -/
def stopStageTimers (o : Order) (s : State) : State :=
  if o.staged && (decide (o.stage = .solve) || decide (o.stage = .settle)) then
    { s with lev := { s.lev with solveTimer := none, settleTimer := none } }
  else s

/-- R111 step 6, R132: the outcome of a leveller order; DONE of a LEVEL or stance RECALL sets the stance. -/
def levelOutcome (o : Order) (st : OrderState) (s : State) : State :=
  when' (o.staged && decide (st = .done)) (setStance .set) (stopStageTimers o s)

/-- R111: an order enters a final state. -/
def endOrder (k : OrderSlot) (st : OrderState) (r : Option Reason) (s : State) : State :=
  match s.order k with
  | none => s
  | some o =>
    let freed := s.claimsAny k
    let handle := s.orderHandle k
    when' freed wantReconsider
      (levelOutcome o st (raise .orderEnd (dropReads handle (dropSuccs k (freeClaims k (s.setOrder k (o.final st r)))))))

/-- R98, R119, R148: an order without stages ends DONE once every entry is ARRIVED. -/
def finishIfDone (k : OrderSlot) (s : State) : State :=
  match s.order k with
  | none => s
  | some o => if o.state = .running ∧ !o.staged ∧ o.allArrived then endOrder k .done none s else s

/-! ## Easing toward a result (R107 to R109) -/

/-- R107: a wind order is BLOCKED again, its entries WAIT, its claims kept. -/
def toBlocked (k : OrderSlot) (s : State) : State :=
  s.modOrder k fun o => { o.mapEntries (fun e => { e with state := .wait }) with state := .blocked, pending := none }

/-- R108: enter a pending result. -/
def enterPending (k : OrderSlot) (p : PendingResult) (s : State) : State :=
  match p with
  | .final st r => endOrder k st r s
  | .toBlocked => wantReconsider (toBlocked k s)

/-- R108: an EASING order with no entry MOVING enters its pending result. -/
def finishEasing (k : OrderSlot) (s : State) : State :=
  match s.order k with
  | none => s
  | some o =>
    if o.state = .easing ∧ !o.anyMoving then
      match o.pending with
      | some p => enterPending k p s
      | none => s
    else s

/-- The eases an order sends to its MOVING channels, but for those named, in ascending channel order
(notes/assumptions/63.md, DESIGN CHOICE). -/
def Order.eases (o : Order) (skip : List Chan) : List Msg :=
  o.entries.filterMap fun e => if e.state = .moving ∧ e.chan ∉ skip then some (.ease e.chan) else none

/-- R107, R108: an order enters EASING with a pending result; its MOVING channels are eased, its WAIT entries HALTED. -/
def easeOut (k : OrderSlot) (p : PendingResult) (skip : List Chan) (s : State) : State :=
  match s.order k with
  | none => s
  | some o =>
    sendAll (o.eases skip) (s.setOrder k { o.mapEntries Entry.stopped with state := .easing, pending := some p })

/-- R109: an order takes a fault; the named channels have been stopped already. -/
def orderFault (k : OrderSlot) (r : Reason) (skip : List Chan) (s : State) : State :=
  match s.order k with
  | none => s
  | some o => if o.state = .running then finishEasing k (easeOut k (.final .failed (some r)) skip s) else s

/-- R55: whether the channel of every MOVING entry of an order is IDLE. -/
def State.allIdle (s : State) (o : Order) : Bool :=
  o.entries.all fun e => decide (e.state ≠ .moving) || decide ((s.chan e.chan).state = .idle)

/-- R55, R107: an order is stopped by a hold that commanded the named channels. A party order whose channels are all
IDLE ends at once; its MOVING entries stay so until their reports are taken (R90, R98). A wind order waits for the reports
(notes/assumptions/18.md, DEDUCED). -/
def stopOrder (k : OrderSlot) (commanded : List Chan) (s : State) : State :=
  match s.order k with
  | none => s
  | some o =>
    match o.owner with
    | .party _ =>
      let s := dropSuccs k (easeOut k (.final .stopped (some .hold)) commanded s)
      if s.allIdle o then endOrder k .stopped (some .hold) s else s
    | .monitor => finishEasing k (easeOut k .toBlocked commanded s)

/-! ## Profiles (R36, R37) -/

/-- R36: the profile an order's kind and stage give. -/
def Order.ownProfile (o : Order) : Profile :=
  match o.kind with
  | .travel => o.profile
  | .jog => .creep
  | .stow => .ramped
  | .level => if o.stage = .lift then .run else .creep
  | .recall => if o.staged then (if o.stage = .lift then .run else .creep) else o.profile

/-- R37: whether a channel is forced to CREEP; the channels of a twin are forced together. -/
def State.forcedCreep (s : State) (c : Chan) : Bool :=
  !(s.chan c).positionKnown ||
  (match s.partner c with
    | some d => !(s.chan d).positionKnown
    | none => false)

/-- R36, R37: the profile sent to a channel of an order. -/
def State.sentProfile (s : State) (o : Order) (c : Chan) : Profile :=
  if s.forcedCreep c then .creep else o.ownProfile

/-! ## The starting procedure (R97) -/

/-- R117: the direction of an AT target, none where it equals the position. -/
def towards (position p : Nat) : Option Dir :=
  if position < p then some .dirOut else if p < position then some .dirIn else none

/-- R37: an AT target is never sent to a channel whose position is unknown (notes/assumptions/38.md). -/
def State.unhomed (s : State) (e : Entry) : Bool :=
  match e.goal with
  | some (.at _) => !(s.chan e.chan).positionKnown
  | _ => false

/-- R39: whether a channel's twin still waits for the order and cannot be started with it: its claim is AWAITED, or its AT
target finds no position. -/
def State.twinWaits (s : State) (o : Order) (c : Chan) : Bool :=
  match s.partner c with
  | none => false
  | some d => o.entries.any fun e => decide (e.chan = d ∧ e.state = .wait) && (decide (e.claim = .awaited) || s.unhomed e)

/-- R37, R39, R97: the entries the starting procedure takes, and so asks coverage for. A channel whose twin is AWAITED is
neither started nor asked about until both are HELD (notes/assumptions/55.md, DESIGN CHOICE). -/
def State.startable (s : State) (o : Order) (e : Entry) : Bool :=
  decide (e.state = .wait ∧ e.claim = .held) && !s.unhomed e && !s.twinWaits o e.chan

/-- R117: an entry with no direction takes it from the position, or is found ARRIVED (notes/assumptions/14.md). -/
def State.aim (s : State) (o : Order) (e : Entry) : Entry :=
  if s.startable o e then
    match e.goal, e.direction with
    | some (.at p), none =>
      match towards (s.chan e.chan).position p with
      | some d => { e with direction := some d }
      | none => { e with state := .arrived }
    | _, _ => e
  else e

/-- R97: whether coverage blocks an entry. -/
def State.entryBlocked (s : State) (e : Entry) : Bool :=
  match e.direction with
  | some d => s.blocked e.chan d
  | none => false

/-- Whether a message is a command to a channel. -/
def Msg.commands (m : Msg) (c : Chan) : Bool :=
  match m with
  | .cut x | .ease x | .pause x | .resume x => decide (x = c)
  | .report _ | .skew _ _ | .stop _ => false

/-- A command still in flight to a channel that takes a start was sent for the motion before it; it is taken as it would
have been in IDLE, where it is ignored (notes/assumptions/4.md). -/
def dropCommands (c : Chan) (out : StartOutcome) (s : State) : State :=
  if out = .refused then s else { s with inFlight := s.inFlight.filter fun m => !m.commands c }

/-- R10, R97: the starts of one starting procedure, with the profiles of the moment it runs. -/
def startEntries (profile : Chan → Profile) : List Entry → State → State × List (Chan × StartOutcome)
  | [], s => (s, [])
  | e :: es, s =>
    match e.direction, e.goal with
    | some d, some t =>
      let (ch, out) := startChannel (s.cfg e.chan) (s.chan e.chan) d t (profile e.chan)
      let (s', outs) := startEntries profile es (dropCommands e.chan out (s.setChan e.chan ch))
      (s', (e.chan, out) :: outs)
    | _, _ => startEntries profile es s

/-- R97: what an entry becomes by its start. -/
def StartOutcome.entryState : StartOutcome → EntryState
  | .refused => .wait
  | .arrived => .arrived
  | .fault _ => .faulted
  | .driving => .moving

/-- R97: the order after its starts. -/
def Order.started (o : Order) (outs : List (Chan × StartOutcome)) : Order :=
  { o.mapEntries (fun e =>
      match outs.lookup e.chan with
      | some out => { e with state := out.entryState }
      | none => e) with state := .running }

/-- R41: whether a start lets its pair engage. -/
def StartOutcome.took : StartOutcome → Bool
  | .arrived | .driving => true
  | .refused | .fault _ => false

/-- R41: whether the starts of one action engage a pair. -/
def State.engages (s : State) (outs : List (Chan × StartOutcome)) (a : Asm) : Bool :=
  match (s.asmCfg a).twin with
  | none => false
  | some (c, d) =>
    match outs.lookup c, outs.lookup d with
    | some x, some y =>
      x.took && y.took && decide ((s.chan c).direction = (s.chan d).direction) &&
        (decide (x = .driving) || decide (y = .driving))
    | _, _ => false

/-- R10, R26: what a start hands on once every start of the action has been taken (notes/assumptions/20.md). -/
def handStart (x : Chan × StartOutcome) (s : State) : State :=
  match x.2 with
  | .refused => s
  | .arrived => handOn x.1 true s
  | .driving => handOn x.1 true s
  | .fault k => faultToMonitor x.1 k (raise .fault s)

/-- R97, R109: the order takes a fault reported by a start. -/
def faultOfStart (k : OrderSlot) (x : Chan × StartOutcome) (s : State) : State :=
  match x.2 with
  | .fault f => orderFault k f.reason [] s
  | .refused | .arrived | .driving => s

/-- R97: a starting procedure whose coverage answers BLOCKED. -/
def startBlocked (k : OrderSlot) (s : State) : State :=
  match s.order k with
  | none => s
  | some o =>
    if o.anyMoving then stopOrder k [] s
    else match o.owner with
      | .party _ => endOrder k .stopped (some .hold) s
      | .monitor => toBlocked k s

/-- R97: a starting procedure whose coverage answers FREE: the starts, engagement, what is handed on, and the outcomes
that the order takes in the same action, last. The starts are handed on in ascending channel order, so the assembly of the
lower channel is evaluated first (R124; notes/assumptions/47.md, DESIGN CHOICE). Of several starts refused with a fault the
lower channel's gives the order its reason (notes/assumptions/59.md, DESIGN CHOICE, also for the outcomes being last). -/
def startFree (k : OrderSlot) (o : Order) (batch : List Entry) (s : State) : State :=
  let (s', outs) := startEntries (s.sentProfile o) batch s
  let s' := s'.setOrder k (o.started outs)
  let s' := forAll (allAsms.filter (s'.engages outs)) engage s'
  finishIfDone k (forAll outs (faultOfStart k) (forAll outs handStart s'))

/-- R97: the starting procedure. -/
def startProc (k : OrderSlot) (s : State) : State :=
  match s.order k with
  | none => s
  | some o =>
    let o := o.mapEntries (s.aim o)
    let s := s.setOrder k o
    let batch := o.entries.filter (s.startable o)
    if batch.any s.entryBlocked then startBlocked k s
    else if batch.isEmpty then finishIfDone k s
    else startFree k o batch s

end Sys2Proof.Machine
end

