-- ==== Sys2Proof/Machine/Leveller.lean ====
section
/-! DEFINITION. The leveller (chapter 7): the stages of a LEVEL and of a stance RECALL, and what AUX does to them. -/
namespace Sys2Proof.Machine

/-! ## Reading the tilt meter (R136) -/

/-- R136: the mean of an axis, which exists while its list holds four readings. -/
def Axis.mean (x : Axis) : Option Int := if x.readings.length = 4 then some (x.readings.sum.tdiv 4) else none

/-- R136: the tilt meter is valid while both axes are VALID. -/
def TiltMeter.valid (t : TiltMeter) : Bool := t.pitch.valid && t.roll.valid

/-! ## Stages -/

/-- The RUNNING order that the leveller takes through stages. -/
def State.stagedSlot (s : State) : Option OrderSlot :=
  allOrders.find? fun k =>
    match s.order k with
    | some o => o.staged && decide (o.state = .running)
    | none => false

/-- Whether a slot holds a RUNNING staged order in a given stage. -/
def State.inStage (s : State) (k : OrderSlot) (st : Stage) : Bool :=
  match s.order k with
  | some o => o.staged && decide (o.state = .running) && decide (o.stage = st)
  | none => false

/-- Whether every entry of a slot's order is ARRIVED. -/
def State.allArrivedAt (s : State) (k : OrderSlot) : Bool :=
  match s.order k with
  | some o => o.allArrived
  | none => false

/-- R108: a leveller order fails while jacks may be moving; the named jacks have been stopped already. -/
def failMoving (k : OrderSlot) (r : Reason) (skip : List Chan) (s : State) : State :=
  finishEasing k (easeOut k (.final .failed (some r)) skip s)

/-- R141: SOLVE begins. -/
def beginSolve (k : OrderSlot) (s : State) : State :=
  let s := s.modOrder k fun o => { o with stage := .solve }
  let s := { s with lev := { s.lev with freshPitch := 0, freshRoll := 0, solveTimer := some Config.solveTimer } }
  if s.tilt.valid then s else endOrder k .failed (some .noTilt) s

/-- R144: SETTLE begins. -/
def beginSettle (k : OrderSlot) (s : State) : State :=
  let s := s.modOrder k fun o => { o with stage := .settle }
  { s with lev := { s.lev with settleTimer := some (s.setup.leveller.settle * Config.ms) } }

/-- R143, R149: LIFT ends once every entry is ARRIVED. -/
def liftCheck (k : OrderSlot) (s : State) : State :=
  if s.inStage k .lift && s.allArrivedAt k then beginSettle k s else s

/-- R143, R149: LIFT begins with the entries rewritten. -/
def beginLift (k : OrderSlot) (f : Entry → Entry) (s : State) : State :=
  liftCheck k (startProc k (s.modOrder k fun o => { o.mapEntries f with stage := .lift }))

/-! ## The SOLVE decision (R142) -/

/-- R142 step 2: the correction of a jack. -/
def correction (cfg : ChannelSetup) (p q : Int) : Int := (cfg.kPitch * p + cfg.kRoll * q).tdiv 256

/-- R142 step 3: the least of several corrections. -/
def least : List Int → Int
  | [] => 0
  | x :: xs => xs.foldl min x

/-- R142 step 3: a lift below deadband becomes 0. -/
def liftOf (deadband : Nat) (x : Int) : Int := if x < deadband then 0 else x

/-- R142 step 3: the planned lifts of an order's entries. -/
def State.withLifts (s : State) (o : Order) (p q : Int) : Order :=
  let m := least (o.entries.map fun e => correction (s.cfg e.chan) p q)
  o.mapEntries fun e =>
    { e with lift := liftOf s.setup.leveller.deadband (correction (s.cfg e.chan) p q - m) }

/-- R142 step 5: whether a jack's lift stays within its stroke. -/
def State.withinStroke (s : State) (e : Entry) : Bool :=
  (s.chan e.chan).positionKnown && decide (((s.chan e.chan).position : Int) + e.lift ≤ (s.cfg e.chan).span)

/-- R143: a jack's entry at the start of LIFT. -/
def State.liftEntry (s : State) (e : Entry) : Entry :=
  if e.lift = 0 then { e with state := .arrived }
  else
    { e with
      state := .wait, direction := some .dirOut,
      goal := some (.at (((s.chan e.chan).position : Int) + e.lift).toNat) }

/-- R142 steps 2 to 6. -/
def liftDecision (k : OrderSlot) (p q : Int) (s : State) : State :=
  match s.order k with
  | none => s
  | some o =>
    let o := s.withLifts o p q
    let s := s.setOrder k o
    if o.entries.all (fun e => decide (e.lift = 0)) then endOrder k .failed (some .notLevel) s
    else if !o.entries.all s.withinStroke then endOrder k .failed (some .outOfStroke) s
    else beginLift k s.liftEntry s

/-- R142 step 1: whether a tilt lies within tolerance. -/
def State.level (s : State) (p q : Int) : Bool :=
  decide (p.natAbs ≤ s.setup.leveller.tolerance) && decide (q.natAbs ≤ s.setup.leveller.tolerance)

/-- R150: whether a stance recall may go on levelling after its recall LIFT. -/
def State.mayTrim (s : State) (o : Order) : Bool :=
  (match o.image with
    | some x => x.trim
    | none => false) && decide (2 ≤ s.setup.leveller.maxPasses)

/-- R142, R150: the SOLVE decision from the mean pitch and the mean roll. -/
def solveDecision (k : OrderSlot) (p q : Int) (s : State) : State :=
  match s.order k with
  | none => s
  | some o =>
    if s.level p q then
      endOrder k .done none { s with lev := { s.lev with residualPitch := p, residualRoll := q } }
    else if o.recallAhead then
      if s.mayTrim o then liftDecision k p q (s.setOrder k { o with pass := 2, recallAhead := false })
      else endOrder k .failed (some .notLevel) s
    else liftDecision k p q s

/-- R144, R150: the settle timer expires. -/
def settleDecision (k : OrderSlot) (s : State) : State :=
  match s.order k with
  | none => s
  | some o =>
    if o.recallAhead then beginSolve k s
    else if s.setup.leveller.maxPasses ≤ o.pass then endOrder k .failed (some .notLevel) s
    else beginSolve k (s.setOrder k { o with pass := o.pass + 1 })

/-! ## The recall LIFT (R149) -/

/-- R149: the target of a jack in the recall LIFT, where its position and contact are known and it lies in the span. -/
def State.recallTarget (s : State) (o : Order) (c : Chan) : Option Nat :=
  match o.image, (s.chan c).contactPos with
  | some x, some cp =>
    match x.extensions.lookup c with
    | some ext => if (s.chan c).positionKnown ∧ cp + ext ≤ (s.cfg c).span then some (cp + ext) else none
    | none => none
  | _, _ => none

/-- R149 steps 2 and 3: a jack's entry at the start of the recall LIFT. -/
def State.recallEntry (s : State) (o : Order) (e : Entry) : Entry :=
  match s.recallTarget o e.chan with
  | none => e
  | some t =>
    match towards (s.chan e.chan).position t with
    | none => { e with state := .arrived, lift := 0 }
    | some d =>
      { e with
        state := .wait, direction := some d, goal := some (.at t), lift := (t : Int) - (s.chan e.chan).position }

/-- R149: the order enters the recall LIFT, and it begins, or the order fails OUT_OF_STROKE there. -/
def recallLift (k : OrderSlot) (s : State) : State :=
  match s.order k with
  | none => s
  | some o =>
    if o.entries.all (fun e => (s.recallTarget o e.chan).isSome) then beginLift k (s.recallEntry o) s
    else endOrder k .failed (some .outOfStroke) (s.setOrder k { o with stage := .lift })

/-! ## REACH (R139, R140) -/

/-- R140, R149: REACH has ended: SOLVE begins, or the recall LIFT. -/
def endReach (k : OrderSlot) (s : State) : State :=
  match s.order k with
  | none => s
  | some o => if o.recallAhead then recallLift k s else beginSolve k s

/-- R140: REACH ends once every entry is ARRIVED. -/
def reachCheck (k : OrderSlot) (s : State) : State :=
  if s.inStage k .reach && s.allArrivedAt k then endReach k s else s

/-- R139: a jack's entry at the start of REACH. -/
def State.reachEntry (s : State) (e : Entry) : Entry :=
  if (s.chan e.chan).auxActive then { e with state := .arrived, contact := false }
  else { e with state := .wait, direction := some .dirOut, goal := some .endOut, contact := false }

/-- R139: a jack in contact at the start of REACH gets a contact_pos, if it has none. One whose position is unknown gets
none (notes/assumptions/45.md, DESIGN CHOICE). -/
def giveContact (c : Chan) (s : State) : State :=
  let ch := s.chan c
  if ch.auxActive && ch.positionKnown && ch.contactPos.isNone then
    s.setChan c { ch with contactPos := some ch.position }
  else s

/-- R140: whether a jack of the order stands ARRIVED without contact. -/
def State.groundless (s : State) (k : OrderSlot) : Bool :=
  match s.order k with
  | some o => o.entries.any fun e => decide (e.state = .arrived) && !(s.chan e.chan).auxActive
  | none => false

/-- R140: a jack found at its OUT end without contact fails the order NO_GROUND; otherwise REACH may have ended. A start of
the same procedure that was refused with a fault has failed the order before (notes/assumptions/60.md, DESIGN CHOICE). -/
def afterReachStart (k : OrderSlot) (s : State) : State :=
  if s.inStage k .reach && s.groundless k then failMoving k .noGround [] s else reachCheck k s

/-- R139: REACH begins, with pass 1. -/
def beginReach (k : OrderSlot) (s : State) : State :=
  match s.order k with
  | none => s
  | some o =>
    let s := forAll (o.entries.map (·.chan)) giveContact s
    let s := s.setOrder k { o.mapEntries s.reachEntry with stage := .reach, pass := 1 }
    afterReachStart k (startProc k s)

/-- R138, R149: a RUNNING staged order begins REACH once every jack is HELD. -/
def beginStaged (k : OrderSlot) (s : State) : State :=
  match s.order k with
  | none => s
  | some o => if o.allHeld then beginReach k s else s

/-- R138, R147, R97: a RUNNING order starts, by its stages or by the starting procedure. -/
def startOrder (k : OrderSlot) (s : State) : State :=
  match s.order k with
  | none => s
  | some o => if o.staged then beginStaged k s else startProc k s

/-- R140, R143: what the leveller does when a report has been applied to a RUNNING staged order. -/
def stageReport (k : OrderSlot) (c : Chan) (kind : ReportKind) (s : State) : State :=
  if s.inStage k .reach then
    if kind = .arrival ∧ !(s.chan c).auxActive then failMoving k .noGround [] s else reachCheck k s
  else liftCheck k s

/-- R140: a jack whose entry is MOVING has travelled max_reach without contact; one cut at contact is MOVING no more. -/
def reachLimit (c : Chan) (s : State) : State :=
  match s.stagedSlot with
  | none => s
  | some k =>
    match s.order k with
    | none => s
    | some o =>
      let moving := o.entries.any fun e => decide (e.chan = c ∧ e.state = .moving) && !e.contact
      if decide (o.stage = .reach) && moving && !(s.chan c).auxActive &&
          decide ((s.cfg c).maxReach ≤ (s.chan c).travelled) then
        failMoving k .noGround [c] (send (.cut c) s)
      else s

/-! ## AUX (R133, R134, R140, R145) -/

/-- R134: contact writes the position into contact_pos. -/
def writeContact (c : Chan) (s : State) : State :=
  if (s.chan c).positionKnown then s.setChan c { s.chan c with contactPos := some (s.chan c).position } else s

/-- R140: contact of a MOVING jack in REACH: the leveller asks for a cut. -/
def contactCut (c : Chan) (s : State) : State :=
  match s.stagedSlot with
  | none => s
  | some k =>
    match s.order k with
    | none => s
    | some o =>
      if o.stage = .reach ∧ o.entries.any (fun e => decide (e.chan = c ∧ e.state = .moving)) then
        send (.cut c) (s.setOrder k (o.modEntry c fun e => { e with contact := true }))
      else s

/-- R145: whether a jack has had contact in this REACH: its entry reads ARRIVED, or its contact cut is under way
(notes/assumptions/26.md). -/
def Order.hadContact (o : Order) (c : Chan) : Bool :=
  o.entries.any fun e => decide (e.chan = c) && (decide (e.state = .arrived) || e.contact)

/-- R145: a jack loses contact while a staged order is RUNNING. -/
def lostContact (c : Chan) (s : State) : State :=
  match s.stagedSlot with
  | none => s
  | some k =>
    match s.order k with
    | none => s
    | some o =>
      if !o.entries.any (fun e => decide (e.chan = c)) then s
      else match o.stage with
        | .none => s
        | .reach => if o.hadContact c then failMoving k .lostContact [] s else s
        | .solve => endOrder k .failed (some .lostContact) s
        | .settle => endOrder k .failed (some .lostContact) s
        | .lift =>
          let s := failMoving k .lostContact [] s
          match s.stanceAsm with
          | some a => faultHanded a .lostContact s
          | none => s

/-- R5, R133, R134, R140, R145: the AUX input of a channel changes; only a jack's means anything. A loss of contact takes the
stance out of SET before it acts on an order (notes/assumptions/69.md, DESIGN CHOICE). -/
def takeAux (c : Chan) (active : Bool) (s : State) : State :=
  let s := s.setChan c { s.chan c with auxActive := active }
  let jack := match s.asmOf c with
    | some a => decide ((s.asmCfg a).kind = .stance)
    | none => false
  if !jack then s
  else if active then contactCut c (writeContact c s)
  else lostContact c (leaveSet (raiseIf (decide (s.lev.stance = .set)) .stanceLost s))

end Sys2Proof.Machine
end

