-- ==== Sys2Proof/Machine/Crc.lean ====
section
/-! DEFINITION. The two cyclic redundancy checks (R156, R177). -/
namespace Sys2Proof.Machine

/-- R177: one bit of CRC-8, polynomial x^8 + x^2 + x + 1. -/
def crc8Bit (x : Byte) : Byte := if x.msb then (x <<< 1) ^^^ 0x07#8 else x <<< 1

/-- R177: one byte of CRC-8, most significant bit first. -/
def crc8Byte (crc b : Byte) : Byte :=
  crc8Bit (crc8Bit (crc8Bit (crc8Bit (crc8Bit (crc8Bit (crc8Bit (crc8Bit (crc ^^^ b))))))))

/-- R177: CRC-8 over bytes in frame order, from 0xFF. -/
def crc8 (bytes : List Byte) : Byte := bytes.foldl crc8Byte 0xFF#8

/-- R156: one bit of CRC-16, polynomial 0x1021. -/
def crc16Bit (x : Half) : Half := if x.msb then (x <<< 1) ^^^ 0x1021#16 else x <<< 1

/-- R202: one byte of CRC-16, most significant bit first. -/
def crc16Byte (crc : Half) (b : Byte) : Half :=
  crc16Bit (crc16Bit (crc16Bit (crc16Bit (crc16Bit (crc16Bit (crc16Bit (crc16Bit
    (crc ^^^ (b.setWidth 16 <<< 8)))))))))

/-- R156: CRC-16 over bytes in address order, from 0xFFFF. -/
def crc16 (bytes : List Byte) : Half := bytes.foldl crc16Byte 0xFFFF#16

end Sys2Proof.Machine
end

