-- ==== Sys2Proof/Machine/Store.lean ====
section
/-! DEFINITION. The profile store (chapter 8): images, the directory, the steps of an operation, suspension, and the setup
image (R203). -/
namespace Sys2Proof.Machine

/-! ## Profile images (R160, R202) -/

/-- The number at a byte of an image, low byte first. -/
def at16 (bs : List Byte) (i : Nat) : Nat := un16 (bs.getD i 0) (bs.getD (i + 1) 0)

/-- A byte of an image. -/
def at8 (bs : List Byte) (i : Nat) : Byte := bs.getD i 0

/-- The bytes of an image from one place on. -/
def slice (bs : List Byte) (i n : Nat) : List Byte := (bs.drop i).take n

/-- R160: the characters of a tag field of twelve bytes, where it lies in its range. -/
def tagOf (field : List Byte) : Option (List Byte) :=
  let chars := field.takeWhile fun b => decide (b ≠ 0#8)
  keepIf (!chars.isEmpty && chars.all (fun b => within 0x20 0x7E b.toNat) &&
    (field.drop chars.length).all (fun b => decide (b = 0#8))) chars

/-- R202: the tag field of an image. -/
def imageTag (bs : List Byte) : Option (List Byte) := tagOf (slice bs 3 12)

/-- R160: the entry count of an image, where it lies in its range. -/
def imageCount (bs : List Byte) : Option Nat := keepIf (within 1 8 (at8 bs 1).toNat) (at8 bs 1).toNat

/-- R202: where an entry of an image begins. -/
def entryAt (k : Nat) : Nat := 19 + 4 * k

/-- R202: an entry of a STANCE image: the jack channel and its extension beyond contact. -/
def stanceEntry (bs : List Byte) (k : Nat) : Option (Chan × Nat) :=
  (chanOf (at8 bs (entryAt k))).map fun c => (c, at16 bs (entryAt k + 2))

/-- R202: an entry of a PRESET image. -/
def presetEntry (bs : List Byte) (k : Nat) : Option TargetEntry :=
  match asmOfByte (at8 bs (entryAt k)), orderTargetOf (at8 bs (entryAt k + 1)) (at16 bs (entryAt k + 2)) with
  | some a, some t => some { asm := a, target := t }
  | _, _ => none

/-- Several entries, all or none. -/
def entriesOf {α : Type} (f : Nat → Option α) : Nat → Option (List α)
  | 0 => some []
  | n + 1 =>
    match entriesOf f n, f n with
    | some xs, some x => some (xs ++ [x])
    | _, _ => none

/-- What the store hands to the order engine with a served read: the entries of the image. -/
inductive Image where
  | stance (x : StanceImage)
  | preset (ts : List TargetEntry)
  deriving DecidableEq, Repr

/-- R96: the entries of an image, where they can be read. -/
def readImage (bs : List Byte) : Option Image :=
  match profileKindOf (at8 bs 0), imageCount bs with
  | some .stance, some n =>
    (entriesOf (stanceEntry bs) n).map fun es => .stance { extensions := es, trim := decide (at8 bs 2 = 1#8) }
  | some .preset, some n => (entriesOf (presetEntry bs) n).map .preset
  | _, _ => none

/-- R202: the CRC-16 over bytes 0 to 61 equals the value in bytes 62 and 63. -/
def imageCrcOk (bs : List Byte) : Bool := decide ((crc16 (bs.take 62)).toNat = at16 bs 62)

/-- R160 step 1: write the CRC-16 of bytes 0 to 61 into bytes 62 and 63. -/
def sealImage (bs : List Byte) : List Byte := bs.take 62 ++ le16 (crc16 (bs.take 62)).toNat

/-- R160: the ranges of the entries of an image, within its count. -/
def entriesInRange (kind : ProfileKind) (bs : List Byte) (n : Nat) : Bool :=
  (List.range n).all fun k =>
    match kind with
    | .stance => (stanceEntry bs k).isSome && decide (at16 bs (entryAt k + 2) ≤ 32767)
    | .preset =>
      match presetEntry bs k with
      | some e =>
        decide (at16 bs (entryAt k + 2) ≤ 32767) &&
        (decide (e.target ≠ .inn ∧ e.target ≠ .out) || decide (at16 bs (entryAt k + 2) = 0))
      | none => false

/-- R160: the range of a residual; 0 for PRESET. -/
def residualInRange (kind : ProfileKind) (z : Int) : Bool :=
  match kind with
  | .stance => decide (-1500 ≤ z ∧ z ≤ 1500)
  | .preset => decide (z = 0)

/-- R160: the flags of an image: TRIM set or clear, set only with kind STANCE. -/
def flagsInRange (kind : ProfileKind) (b : Byte) : Bool := decide (b = 0#8) || (decide (b = 1#8) && decide (kind = .stance))

/-- R160: every range the image checks of a SAVE_PROFILE use. -/
def imageInRange (bs : List Byte) : Bool :=
  match profileKindOf (at8 bs 0), imageCount bs, imageTag bs with
  | some kind, some n, some _ =>
    flagsInRange kind (at8 bs 2) && residualInRange kind (sx16 (at8 bs 15) (at8 bs 16)) &&
    residualInRange kind (sx16 (at8 bs 17) (at8 bs 18)) && entriesInRange kind bs n
  | _, _, _ => false

/-- R165, R166: the image of a capture, before its CRC. -/
def captureImage (kind : ProfileKind) (trim : Bool) (tag : List Byte) (pitch roll : Int) (entries : List (List Byte)) :
    List Byte :=
  ([kind.code, byte entries.length, bit trim] ++ tag ++ le16s pitch ++ le16s roll ++ entries.flatten ++
    List.replicate 64 0#8).take 62

/-! ## The directory (R155, R156) -/

/-- R155: the directory entry of an image that reads VALID. -/
def validEntry (bs : List Byte) : Option DirEntry :=
  match profileKindOf (at8 bs 0), imageCount bs, imageTag bs with
  | some k, some n, some t => some { state := .valid, kind := some k, count := n, tag := t }
  | _, _, _ => none

/-- The 64 bytes of a profile slot (R153). -/
def State.slotBytes (s : State) (p : ProfileSlot) : List Byte := s.nv.mem.readList (p.val * 64) 64

/-- The 512 bytes of the setup area (R153). -/
def State.areaBytes (s : State) : List Byte := s.nv.mem.readList 2048 512

/-- R153: whether bytes stand erased. -/
def allErased (bs : List Byte) : Bool := bs.all fun b => decide (b = 0xFF#8)

/-- The unit of a profile slot (R153). -/
def slotUnit (p : ProfileSlot) : Fin 40 := ⟨p.val, Nat.lt_trans p.isLt (by decide)⟩

/-- R156: what the scan finds in a slot. -/
def scanSlot (nv : NvArray) (p : ProfileSlot) : DirEntry :=
  let bs := nv.mem.readList (p.val * 64) 64
  if nv.marks[slotUnit p] then DirEntry.plain .invalid
  else if allErased bs then DirEntry.plain .empty
  else if imageCrcOk bs then
    match validEntry bs with
    | some e => e
    | none => DirEntry.plain .invalid
  else DirEntry.plain .invalid

/-- Write a directory entry. -/
def setDir (p : ProfileSlot) (e : DirEntry) (s : State) : State :=
  { s with store := { s.store with directory := s.store.directory.set p e } }

/-- R156: the scan of start-up step 2. -/
def scanAll (s : State) : State := forAll allProfiles (fun p s => setDir p (scanSlot s.nv p) s) s

/-- R155: a read that finds the CRC of a VALID slot failed makes it INVALID. -/
def invalidateSlot (p : ProfileSlot) (s : State) : State :=
  if (s.store.directory[p]).state = .valid then setDir p (DirEntry.plain .invalid) s else s

/-- R157: the pinned count of a slot. -/
def State.pinned (s : State) (p : ProfileSlot) : Nat := s.store.queue.countP fun r => decide (r.slot = p)

/-! ## Operations (R159 to R162) -/

/-- Where the units of an operation begin (R153). -/
def OpPlace.base : OpPlace → Nat
  | .slot p => p.val * 64
  | .setupArea => 2048

/-- How many units an operation has (R159). -/
def OpPlace.units : OpPlace → Nat
  | .slot _ => 1
  | .setupArea => 8

/-- The unit marks of an operation (R154). -/
def OpPlace.marks : OpPlace → List (Fin 40)
  | .slot p => [slotUnit p]
  | .setupArea => [32, 33, 34, 35, 36, 37, 38, 39]

/-- R154: set the unit marks of an operation; true is OPEN. -/
def setMarks (x : OpPlace) (mark : Bool) (s : State) : State :=
  forAll x.marks (fun u s => { s with nv := { s.nv with marks := s.nv.marks.set u mark } }) s

/-- The array's memory replaced. -/
def State.withMem (s : State) (m : Memory) : State := { s with nv := { s.nv with mem := m } }

/-- The memory after a row program, and the draw that its free values have taken (notes/assumptions/10.md). -/
def NvArray.programRow (x : NvArray) (a : Nat) (bs : List Byte) (flaws : List Host.Cell) : NvArray :=
  { x with mem := (x.mem.program x.draws a bs).flaw a 16 flaws, draws := x.draws + 1 }

/-- The array after a step on some bytes is interrupted, and the draw that its free values have taken
(notes/assumptions/10.md). -/
def NvArray.interruptStep (x : NvArray) (a : Nat) (bs : List Byte) : NvArray :=
  { x with mem := x.mem.interrupt x.draws a bs, draws := x.draws + 1 }

/-- R159: an erase step in progress. -/
def eraseStep (op : Operation) (u : Nat) : Operation := { op with step := .erase u, remaining := Config.eraseTime }

/-- R159: a row step in progress. -/
def rowStep (op : Operation) (r : Nat) : Operation := { op with step := .row r, remaining := Config.rowTime }

/-- R160 to R162: an operation begins: its marks OPEN, its slot BUSY, its guard started, its first erase step running. What
it is halted from reads ERASING before its first suspension (notes/assumptions/53.md, DESIGN CHOICE). -/
def beginOp (kind : OpKind) (place : OpPlace) (image : List Byte) (s : State) : State :=
  let op : Operation :=
    { kind := kind, place := place, step := .erase 0, remaining := Config.eraseTime, image := image, guard := 0,
      haltedFrom := .erasing }
  let s := setMarks place true s
  let s := match place with
    | .slot p => setDir p (DirEntry.plain .busy) s
    | .setupArea => s
  { s with store := { s.store with state := .erasing, op := some op, halt := none } }

/-- R160 step 5: the store is IDLE again. -/
def storeIdle (s : State) : State := { s with store := { s.store with state := .idle, op := none, halt := none } }

/-- R196: the outcome of a commit is handed to setup memory. -/
def committed (s : State) : State :=
  if s.sys.status = .unconfigured then { s with sys := { s.sys with status := .configured } } else s

/-- R160, R161, R162: the end of an operation by its verify. -/
def endOp (op : Operation) (passed : Bool) (entry : DirEntry) (s : State) : State :=
  let s := when' passed (setMarks op.place false) s
  let s := match op.place with
    | .slot p => setDir p (if passed then entry else DirEntry.plain .invalid) s
    | .setupArea => when' passed committed s
  raise (if passed then .storeDone else .storeFailed) (storeIdle s)

/-- R160 step 4, R161, R162: the verify, in the action of the last step. -/
def verify (op : Operation) (s : State) : State :=
  let bs := s.nv.mem.readList op.place.base (op.place.units * 64)
  match op.kind with
  | .save =>
    match validEntry bs with
    | some e => endOp op (decide (bs = op.image) && imageCrcOk bs) e s
    | none => endOp op false (DirEntry.plain .invalid) s
  | .erase => endOp op (allErased bs) (DirEntry.plain .empty) s
  | .commit => endOp op (decide (bs = op.image)) (DirEntry.plain .invalid) s

/-- R160: the next step of an operation runs. -/
def runStep (st : StoreState) (op : Operation) (s : State) : State :=
  { s with store := { s.store with state := st, op := some op } }

/-- R160 step 2, R161, R162: an erase step runs out; `flaws` are bytes of the unit that did not take it. -/
def eraseEnd (flaws : List Host.Cell) (s : State) : State :=
  match s.store.state, s.store.op with
  | .erasing, some op =>
    match op.step with
    | .erase u =>
      let a := op.place.base + 64 * u
      let s := s.withMem ((s.nv.mem.erase a 64).flaw a 64 flaws)
      if u + 1 < op.place.units then runStep .erasing (eraseStep op (u + 1)) s
      else match op.kind with
        | .erase => verify op s
        | .save | .commit => runStep .programming (rowStep op 0) s
    | .row _ => s
  | _, _ => s

/-- R160 steps 3 and 4, R162: a row step runs out; `flaws` are bytes of the row that did not take it. -/
def rowEnd (flaws : List Host.Cell) (s : State) : State :=
  match s.store.state, s.store.op with
  | .programming, some op =>
    match op.step with
    | .row r =>
      let a := op.place.base + 16 * r
      let s := { s with nv := s.nv.programRow a (slice op.image (16 * r) 16) flaws }
      if r + 1 < op.place.units * 4 then runStep .programming (rowStep op (r + 1)) s else verify op s
    | .erase _ => s
  | _, _ => s

/-! ## Suspension (R172) -/

/-- R172 step 1: the store halts the running step. -/
def suspend (op : Operation) (from' : HaltedFrom) (s : State) : State :=
  { s with store := { s.store with
      state := .suspended, op := some { op with haltedFrom := from' }, halt := some Config.haltTime } }

/-- R172: the store suspends when the guard is met and the queue is not empty. -/
def suspendIfDue (s : State) : State :=
  match s.store.op with
  | none => s
  | some op =>
    if op.guard < Config.guardTime ∨ s.store.queue = [] then s
    else match s.store.state with
      | .erasing => suspend op .erasing s
      | .programming => suspend op .programming s
      | .idle | .suspended => s

/-- R172: the guard comes to be met. -/
def meetGuard (s : State) : State :=
  match s.store.state, s.store.op with
  | .erasing, some op | .programming, some op =>
    suspendIfDue { s with store := { s.store with op := some { op with guard := max op.guard Config.guardTime } } }
  | _, _ => s

/-- R172 step 3: the store resumes the halted step, and the guard restarts. -/
def resumeOp (s : State) : State :=
  match s.store.op with
  | none => s
  | some op =>
    { s with store := { s.store with
        state := (match op.haltedFrom with
          | .erasing => .erasing
          | .programming => .programming),
        op := some { op with guard := 0 }, halt := none } }

/-- R154, R174: an operation in flight is abandoned where it stood, its marks OPEN. The bytes of the step in progress are
free values (notes/assumptions/10.md). -/
def abandonOp (s : State) : NvArray :=
  match s.store.op with
  | none => s.nv
  | some op =>
    match op.step with
    | .erase u => s.nv.interruptStep (op.place.base + 64 * u) (List.replicate 64 erasedByte)
    | .row r => s.nv.interruptStep (op.place.base + 16 * r) (slice op.image (16 * r) 16)

/-! ## The setup image (R203) -/

/-- The twelve channel numbers' setups, in order. -/
def Setup.channelBytes (x : Setup) : List Byte := (allChans.map fun c => encodeChannelSetup x.channels[c]).flatten

/-- The eight assembly records, in order. -/
def Setup.asmBytes (x : Setup) : List Byte := (allAsms.map fun a => encodeAsmSetup x.asms[a]).flatten

/-- The four sweep pairs. -/
def Setup.sweepBytes (x : Setup) : List Byte :=
  encodeSweep x.sweep[0] ++ encodeSweep x.sweep[1] ++ encodeSweep x.sweep[2] ++ encodeSweep x.sweep[3]

/-- R203: bytes 0 to 509 of the setup image. -/
def setupBody (x : Setup) : List Byte :=
  (x.channelBytes ++ x.asmBytes ++ encodeLeveller x.leveller ++ encodeWind x.wind ++ encodeLines x.lines ++
    x.sweepBytes ++ [byte x.protect] ++ List.replicate 29 0#8).take 510

/-- R196, R203: the 512-byte setup image of a working setup. -/
def setupImage (x : Setup) : List Byte := setupBody x ++ le16 (crc16 (setupBody x)).toNat

/-- R203: the channel setup of an image. -/
def areaChannel (bs : List Byte) (c : Chan) : Option ChannelSetup := decodeChannelSetup (slice bs (29 * c.val) 29)

/-- R203: an assembly record of an image. -/
def areaAsm (bs : List Byte) (a : Asm) : Option AsmSetup :=
  let r := slice bs (348 + 13 * a.val) 13
  if (at8 r 6).toNat ≤ 6 then
    decodeAsmSetup (at8 r 0) (at8 r 1) (at8 r 2) (at8 r 3) (at8 r 4) (at8 r 5) (slice r 7 (at8 r 6).toNat)
  else none

/-- R203: a sweep pair of an image. -/
def areaSweep (bs : List Byte) (p : Nat) : Option SweepPair :=
  decodeSweep (at8 bs (468 + 3 * p)) (at8 bs (469 + 3 * p)) (at8 bs (470 + 3 * p))

/-- R29: how many records are of a kind. -/
def kindCount (asms : Vector AsmSetup 8) (k : AsmKind) : Nat := allAsms.countP fun a => decide (asms[a].kind = k)

/-- R29: the limits of the assembly table as a whole. -/
def tableFits (asms : Vector AsmSetup 8) : Bool :=
  decide (kindCount asms .stance ≤ 1) && decide (kindCount asms .awning ≤ 2) &&
  decide ((allAsms.map fun a => asms[a].channels).flatten.Nodup)

/-- R30: the assembly that names a channel. -/
def memberOf (asms : Vector AsmSetup 8) (c : Chan) : Option Asm := allAsms.find? fun a => decide (c ∈ asms[a].channels)

/-- R30: write the assembly field of every channel setup from the lists. -/
def withMembers (x : Setup) : Setup :=
  allChans.foldl
    (fun (y : Setup) (c : Chan) => { y with channels := y.channels.set c { y.channels[c] with assembly := memberOf x.asms c } }) x

/-- Fill a table from decoded records, all or none. -/
def fillTable {α : Type} {n : Nat} (f : Fin n → Option α) (v : Vector α n) : List (Fin n) → Option (Vector α n)
  | [] => some v
  | i :: is =>
    match f i with
    | some x => fillTable f (v.set i x) is
    | none => none

/-- R197 step 1: the working setup that 512 bytes hold, where every field lies in its range and R29 is kept. -/
def decodeSetup (bs : List Byte) : Option Setup :=
  match fillTable (areaChannel bs) Setup.default.channels allChans, fillTable (areaAsm bs) Setup.default.asms allAsms,
    decodeLeveller (slice bs 452 5), decodeWind (slice bs 457 7), decodeLines (slice bs 464 4),
    fillTable (fun p : Fin 4 => areaSweep bs p.val) Setup.default.sweep [0, 1, 2, 3] with
  | some channels, some asms, some lev, some wind, some lines, some sweep =>
    keepIf (tableFits asms && decide ((at8 bs 480).toNat ≤ 32))
      (withMembers { channels := channels, asms := asms, leveller := lev, wind := wind, lines := lines, sweep := sweep,
                     protect := (at8 bs 480).toNat })
  | _, _, _, _, _, _ => none

/-- R197 step 1: whether a unit mark of the setup area is OPEN. -/
def areaOpen (nv : NvArray) : Bool := OpPlace.setupArea.marks.any fun u => nv.marks[u]

/-- R197 step 1: the working setup of a good setup area. -/
def areaSetup (nv : NvArray) : Option Setup :=
  let bs := nv.mem.readList 2048 512
  if areaOpen nv || allErased bs || decide ((crc16 (bs.take 510)).toNat ≠ at16 bs 510) then none else decodeSetup bs

end Sys2Proof.Machine
end

