-- ==== Sys2Proof/Machine/Flow.lean ====
section
/-! DEFINITION. What the order engine takes (chapter 5): reports and notices, wind orders, supersede and creation, served
reads, releases and the ends that requests ask for. -/
namespace Sys2Proof.Machine

/-! ## Reports (R98, R105) -/

/-- R98: what an entry becomes by a report; a jack cut at contact is ARRIVED (R140). -/
def Entry.reported (e : Entry) (kind : ReportKind) : Entry :=
  match kind with
  | .arrival => { e with state := .arrived, contact := false }
  | .halt => { e with state := if e.contact then .arrived else .halted, contact := false }
  | .fault _ => { e with state := .faulted, contact := false }

/-- R105 step 2: an awaited channel of an order passes to its successor. -/
def passClaim (k : OrderSlot) (c : Chan) (s : State) : State :=
  if s.claims[c] = some k then
    match s.succs[c] with
    | some j =>
      partTwin c
        (((s.setClaim c (some j)).setSucc c none).modOrder j fun o => o.modEntry c fun e => { e with claim := .held })
    | none => s
  else s

/-- R98, R109: what the order does with a report once its entry has taken it. -/
def orderReport (k : OrderSlot) (c : Chan) (kind : ReportKind) (s : State) : State :=
  match s.order k with
  | none => s
  | some o =>
    match o.state with
    | .running =>
      match kind with
      | .fault f => orderFault k f.reason [] s
      | .arrival | .halt => if o.staged then stageReport k c kind s else finishIfDone k s
    | .easing => finishEasing k s
    | .loading | .armed | .blocked | .done | .cancelled | .stopped | .failed | .superseded | .expired => s

/-- R97, R105 step 4: a channel has entered IDLE: the RUNNING order that claims it by now and still waits for it starts
it. A STOW, which has no REACH, starts each jack as it passes (notes/assumptions/43.md, DEDUCED). -/
def startWaiting (c : Chan) (s : State) : State :=
  match s.claims[c] with
  | none => s
  | some j =>
    match s.order j with
    | none => s
    | some o =>
      if o.state = .running ∧ o.entries.any (fun e => decide (e.chan = c ∧ e.state = .wait ∧ e.claim = .held)) then
        if o.staged && decide (o.stage ≠ .none) then liftCheck j (afterReachStart j (startProc j s)) else startOrder j s
      else s

/-- R98, R105: the order engine takes a channel's report. -/
def takeReport (r : Report) (s : State) : State :=
  match s.findOrder r.order with
  | none => s
  | some k =>
    let s := s.modOrder k fun o => o.modEntry r.chan fun e => e.reported r.kind
    startWaiting r.chan (orderReport k r.chan r.kind (passClaim k r.chan s))

/-- R98, R109: the order engine takes a SKEW report; the twin's channels have been cut already. -/
def takeSkew (a : Asm) (handle : Byte) (s : State) : State :=
  match s.findOrder handle with
  | none => s
  | some k => orderFault k .skew (s.asmCfg a).channels s

/-- R55, R107: the order engine takes a stop notice. -/
def takeStop (n : StopNotice) (s : State) : State :=
  match s.findOrder n.order with
  | none => s
  | some k =>
    match s.order k with
    | none => s
    | some o => if o.state = .running then stopOrder k n.commanded s else s

/-! ## Wind retraction orders (R113, R114) -/

/-- The assembly of a wind order. -/
def Order.awning (o : Order) : Asm :=
  match o.targets with
  | t :: _ => t.asm
  | [] => 0

/-- R114 step 3: claim the channels of a wind order. -/
def claimAll (k : OrderSlot) (cs : List Chan) (s : State) : State := forAll cs (fun c s => s.setClaim c (some k)) s

/-- R114: reconsider a BLOCKED wind retraction order. -/
def reconsiderOne (k : OrderSlot) (s : State) : State :=
  match s.order k with
  | none => s
  | some o =>
    let cs := o.entries.map (·.chan)
    if o.state ≠ .blocked then s
    else if !cs.all (fun c => decide (s.claims[c] = none ∨ s.claims[c] = some k)) then s
    else if cs.any (fun c => s.blocked c .dirIn) then s
    else
      let s := claimAll k cs s
      if (s.asm o.awning).settledIn then
        endOrder k .done none
          (s.setOrder k (o.mapEntries fun e => { e with claim := .held, state := .arrived }))
      else
        startProc k
          (s.setOrder k { o.mapEntries (fun e => { e with claim := .held, state := .wait }) with state := .running })

/-- R114: while an action asks for it, every BLOCKED wind order is reconsidered, slot 6 before slot 7
(notes/assumptions/56.md, DESIGN CHOICE). -/
def settleLoop : Nat → State → State
  | 0, s => { s with reconsider := false }
  | n + 1, s =>
    if s.reconsider then settleLoop n (forAll monitorOrders reconsiderOne { s with reconsider := false }) else s

/-- R56, R92, R111, R114: the end of an action: BLOCKED wind orders are reconsidered where the action asked for it, once,
after everything else of the action (notes/assumptions/51.md, DESIGN CHOICE). Each round can end an order or start it, and
there are two, so four rounds leave nothing to reconsider. -/
def settle (s : State) : State := settleLoop 4 s

/-- R113 step 1: whether a live MONITOR order names an awning. -/
def State.windOrdered (s : State) (a : Asm) : Bool :=
  allOrders.any fun k =>
    match s.order k with
    | some o => o.state.live && decide (o.owner = .monitor) && o.mask.getLsbD a.val
    | none => false

/-- R113 step 2: the monitor slot for a new wind order, and whether its final order is freed. -/
def State.windSlot (s : State) : Option OrderSlot :=
  match monitorOrders.find? fun k => (s.order k).isNone with
  | some k => some k
  | none => monitorOrders.find? fun k => !s.liveAt k

/-- R77: the record of a new wind retraction order; its entries carry no claim yet (notes/assumptions/16.md). -/
def windOrder (cfg : AsmSetup) (a : Asm) : Order where
  owner       := .monitor
  kind        := .travel
  mask        := asmBit a
  targets     := [{ asm := a, target := .inn }]
  profile     := .ramped
  mode        := .now
  supersede   := false
  profileSlot := none
  profileKind := none
  jogChan     := none
  jogDistance := 0
  entries     := (allChans.filter fun c => decide (c ∈ cfg.channels)).map fun c =>
    { chan := c, claim := .awaited, state := .wait, direction := some .dirIn, lift := 0, goal := some .endIn,
      contact := false }
  state       := .blocked
  pending     := none
  stage       := .none
  pass        := 0
  reason      := none
  armed       := none
  linger      := none
  image       := none
  recallAhead := false

/-- R113: the order engine takes the request for a wind retraction order. A slot is always found (R113). -/
def windRequest (a : Asm) (s : State) : State :=
  if s.windOrdered a then s
  else match s.windSlot with
    | none => s
    | some k =>
      let s := if (s.order k).isSome then s.freeOrder k else s
      wantReconsider (s.setOrder k (windOrder (s.asmCfg a) a))

/-! ## Creation (R93, R94) -/

/-- R87: the lowest free party slot. -/
def State.freePartySlot (s : State) : Option OrderSlot := partyOrders.find? fun k => (s.order k).isNone

/-- R103: the live orders that claim or await a channel of a list. -/
def State.conflicts (s : State) (cs : List Chan) : List OrderSlot :=
  allOrders.filter fun k =>
    s.liveAt k && cs.any fun c => decide (s.claims[c] = some k) || decide (s.succs[c] = some k)

/-- R93 step 7, R103: whether the claims let a new order be made. -/
def State.claimsAllow (s : State) (owner : Owner) (supersede : Bool) (cs : List Chan) : Bool :=
  let ks := s.conflicts cs
  ks.isEmpty || (supersede && ks.all fun k => decide ((s.order k).map (·.owner) = some owner))

/-- R104: the orders a handover can join. -/
def Order.hands (o : Order) : Bool :=
  match o.kind with
  | .travel => true
  | .recall => !o.staged
  | .jog | .level | .stow => false

/-- R104: whether one channel, taken alone, qualifies for handover from an old order to a new one. An AT target at the
present position lies ahead by R11, and its channel is handed over (notes/assumptions/44.md, DEDUCED). -/
def State.handsChan (s : State) (old new : Order) (c : Chan) : Bool :=
  decide ((old.entry c).map (·.state) = some .moving) && (s.chan c).state.pursuing &&
  (match new.entry c with
    | some e =>
      match e.goal with
      | some t => liesAhead (s.chan c) t
      | none => false
    | none => false)

/-- R104: whether a channel is handed over; the channels of a twin qualify together or not at all. -/
def State.qualifies (s : State) (kOld : OrderSlot) (old new : Order) (c : Chan) : Bool :=
  old.hands && decide (new.kind = .travel) && decide (new.mode = .now) && decide (s.claims[c] = some kOld) &&
  s.handsChan old new c &&
  (match s.partner c with
    | some d => s.handsChan old new d
    | none => true)

/-- R11, R104: a channel takes a retarget from an order; a target found reached is reported. A position set by the end it
finds is handed on once, with the end of the motion (R34, R42; notes/assumptions/70.md, DESIGN CHOICE). -/
def retarget (c : Chan) (t : Target) (p : Profile) (s : State) : State :=
  let (ch, arrived) := retargetChannel (s.cfg c) (s.chan c) t p
  handOn c false (when' arrived (emitReport c .arrival none) (s.setChan c ch))

/-- R104: the claim and the entries of a channel that is handed over. -/
def handClaim (kOld kNew : OrderSlot) (c : Chan) (s : State) : State :=
  let s := s.setClaim c (some kNew)
  let s := s.modOrder kOld fun o => o.modEntry c fun e => { e with state := .halted }
  s.modOrder kNew fun o => o.modEntry c fun e => { e with claim := .held, state := .moving }

/-- R104: a channel that is handed over takes its retarget. -/
def handRetarget (new : Order) (profile : Chan → Profile) (c : Chan) (s : State) : State :=
  match (new.entry c).bind (·.goal) with
  | some t => retarget c t (profile c) s
  | none => s

/-- R104: channels are handed over together: their claims first, so that a pair stays engaged, then the retargets, in
ascending channel order (notes/assumptions/63.md, DESIGN CHOICE). -/
def handOver (kOld kNew : OrderSlot) (new : Order) (cs : List Chan) (s : State) : State :=
  forAll cs (handRetarget new (s.sentProfile new)) (forAll cs (handClaim kOld kNew) s)

/-- R103: the claims of an order on channels a new order needs pass to it; what still moves for it is awaited. -/
def passOrAwait (kOld kNew : OrderSlot) (old : Order) (c : Chan) (s : State) : State :=
  if s.claims[c] = some kOld then
    if old.state.live && decide ((old.entry c).map (·.state) = some .moving) then
      (s.setSucc c (some kNew)).modOrder kNew fun o => o.modEntry c fun e => { e with claim := .awaited }
    else s.setClaim c (some kNew)
  else s

/-- R41, R103: the channels a new order needs pass to it or are awaited; a pair whose channels they part is engaged no
more. -/
def passChannels (kOld kNew : OrderSlot) (old : Order) (cs : List Chan) (s : State) : State :=
  forAll cs partTwin (forAll cs (passOrAwait kOld kNew old) s)

/-- R103: a RUNNING order's channels that are not handed over: passed or awaited, and the order is eased out. -/
def supersedeRest (kOld kNew : OrderSlot) (cs : List Chan) (s : State) : State :=
  match s.order kOld with
  | none => s
  | some old =>
    let s := passChannels kOld kNew old cs s
    if old.anyMoving then easeOut kOld (.final .superseded (some .claimed)) [] s
    else endOrder kOld .superseded (some .claimed) s

/-- R103, R104: one conflicting order is superseded by a new one that needs the channels of a list: its handovers, then the
channels it passes, then its eases or its end (notes/assumptions/57.md, DESIGN CHOICE). -/
def supersedeOne (kNew : OrderSlot) (new : Order) (cs : List Chan) (kOld : OrderSlot) (s : State) : State :=
  match s.order kOld with
  | none => s
  | some old =>
    match old.state with
    | .loading | .armed | .blocked => supersedeRest kOld kNew cs s
    | .running =>
      supersedeRest kOld kNew cs (handOver kOld kNew new (cs.filter (s.qualifies kOld old new)) s)
    | .easing => passChannels kOld kNew old cs s
    | .done | .cancelled | .stopped | .failed | .superseded | .expired => s

/-- R93: the channels of an order are claimed where nobody claims them. -/
def claimFree (k : OrderSlot) (c : Chan) (s : State) : State :=
  if (s.claims[c]).isNone then s.setClaim c (some k) else s

/-- R95, R170, R172: queue the read of a LOADING order; a store whose guard is met suspends for it. -/
def queueRead (k : OrderSlot) (p : ProfileSlot) (s : State) : State :=
  suspendIfDue { s with store := { s.store with queue := s.store.queue ++ [{ order := s.orderHandle k, slot := p }] } }

/-- R93: the first state of a new order. -/
def firstState (k : OrderSlot) (s : State) : State :=
  match s.order k with
  | none => s
  | some o =>
    match o.kind, o.profileSlot, o.mode with
    | .recall, some p, _ => queueRead k p (s.setOrder k { o with state := .loading })
    | _, _, .now => startOrder k (s.setOrder k { o with state := .running })
    | _, _, .armed =>
      if !o.staged ∧ o.allArrived ∧ o.kind = .travel then endOrder k .done none s
      else s.setOrder k { o with state := .armed, armed := some Config.armedTimer }

/-- R93 step 8: whether coverage is FREE for every entry a new order asks about. -/
def State.coverageFree (s : State) (asked : List (Chan × Dir)) : Bool := !asked.any fun x => s.blocked x.1 x.2

/-- R93: make an order in a party slot: write it, claim, supersede, and enter its first state. Several conflicting orders
are superseded in ascending slot order (notes/assumptions/57.md, DESIGN CHOICE). -/
def makeOrder (k : OrderSlot) (o : Order) (s : State) : State :=
  let cs := o.entries.map (·.chan)
  let ks := s.conflicts cs
  firstState k (forAll ks (supersedeOne k o cs) (forAll cs (claimFree k) (s.setOrder k o)))

/-- R93 steps 6 to 8 and the making of an order: its answer, and its handle. -/
def createOrder (o : Order) (asked : List (Chan × Dir)) (s : State) : State × Result × List Byte :=
  let cs := o.entries.map (·.chan)
  match s.freePartySlot with
  | none => (s, .tableFull, [])
  | some k =>
    if !s.claimsAllow o.owner o.supersede cs then (s, .claimed, [])
    else if !s.coverageFree asked then (s, .held, [])
    else
      let h := s.orderHandle k
      (makeOrder k o s, .ok, [h])

/-! ## Targets (R117) -/

/-- R117: the channel target of an order target. -/
def OrderTarget.goal : OrderTarget → Target
  | .inn => .endIn
  | .out => .endOut
  | .at p => .at p

/-- R117: the direction of a channel under an order target. -/
def OrderTarget.direction (t : OrderTarget) (position : Nat) : Option Dir :=
  match t with
  | .inn => some .dirIn
  | .out => some .dirOut
  | .at p => towards position p

/-- R117: an entry takes a target: WAIT with its direction, or ARRIVED where an AT target equals the position. -/
def State.targeted (s : State) (t : OrderTarget) (e : Entry) : Entry :=
  let d := t.direction (s.chan e.chan).position
  { e with direction := d, goal := some t.goal, state := if d.isNone then .arrived else .wait }

/-- The target that an order's targets list gives a channel. -/
def State.targetFor (s : State) (ts : List TargetEntry) (c : Chan) : Option OrderTarget :=
  match s.asmOf c with
  | none => none
  | some a => (ts.find? fun t => decide (t.asm = a)).map (·.target)

/-- R117: every entry of an order takes the target of its assembly. -/
def State.targetAll (s : State) (ts : List TargetEntry) (o : Order) : Order :=
  { o.mapEntries (fun e =>
      match s.targetFor ts e.chan with
      | some t => s.targeted t e
      | none => e) with targets := ts }

/-- R96, R101: whether an AT position lies within the span of every channel of an assembly. -/
def State.targetInSpan (s : State) (a : Asm) (t : OrderTarget) : Bool :=
  match t with
  | .at p => (s.asmCfg a).channels.all fun c => decide (p ≤ (s.cfg c).span)
  | .inn | .out => true

/-- R93 step 5: whether an AT target finds every position of its assembly known. -/
def State.targetHomed (s : State) (a : Asm) (t : OrderTarget) : Bool :=
  match t with
  | .at _ => (s.asmCfg a).channels.all fun c => (s.chan c).positionKnown
  | .inn | .out => true

/-! ## Served reads (R96) -/

/-- R96 step 2: whether a stance image matches the stance as it stands. -/
def State.stanceMatches (s : State) (x : StanceImage) : Bool :=
  match s.stanceAsm with
  | none => false
  | some a =>
    let cs := (s.asmCfg a).channels
    decide (x.extensions.length = cs.length) && cs.all (fun c => (x.extensions.map (·.1)).contains c)

/-- R96 step 2: whether a preset image matches an order's mask and the assemblies as they stand. -/
def State.presetMatches (s : State) (mask : BitVec 8) (ts : List TargetEntry) : Bool :=
  let as := ts.map (·.asm)
  decide as.Nodup && as.all (fun a => mask.getLsbD a.val && decide ((s.asmCfg a).kind ≠ .stance)) &&
  (maskAsms mask).all (fun a => decide (a ∈ as)) &&
  ts.all fun t => s.targetInSpan t.asm t.target && s.targetHomed t.asm t.target

/-- R96 step 3: the targets of a preset in ascending assembly order. -/
def ascending (ts : List TargetEntry) : List TargetEntry :=
  allAsms.filterMap fun a => ts.find? fun t => decide (t.asm = a)

/-- R96, R129: whether coverage blocks a channel of a PRESET in the direction its target gives at the read, whether its claim
is HELD or AWAITED. -/
def State.presetBlocked (s : State) (o : Order) : Bool :=
  !o.staged && o.entries.any fun e => decide (e.state = .wait) && s.entryBlocked e

/-- R96 step 3, R129: the order after its read: ARMED with its timer, or RUNNING, or STOPPED by a hold without motion. -/
def afterRead (k : OrderSlot) (o : Order) (s : State) : State :=
  match o.mode with
  | .armed => s.setOrder k { o with state := .armed, armed := some Config.armedTimer }
  | .now =>
    let s := s.setOrder k { o with state := .running }
    if s.presetBlocked o then startBlocked k s else startOrder k s

/-- R96: a LOADING order takes its served read: whether its CRC passed, and what its entries say, if they can be read. -/
def loadingEnd (k : OrderSlot) (crcOk : Bool) (image : Option Image) (s : State) : State :=
  match s.order k with
  | none => s
  | some o =>
    if o.state ≠ .loading then s
    else if !crcOk then endOrder k .failed (some .profileInvalid) s
    else match image with
    | none => endOrder k .failed (some .profileMismatch) s
    | some (.stance x) =>
      if o.staged && s.stanceMatches x then afterRead k { o with image := some x, recallAhead := true } s
      else endOrder k .failed (some .profileMismatch) s
    | some (.preset ts) =>
      if !o.staged && s.presetMatches o.mask ts then afterRead k (s.targetAll (ascending ts) o) s
      else endOrder k .failed (some .profileMismatch) s

/-- R173: the store serves the read at the head of its queue. -/
def serveHead (s : State) : State :=
  match s.store.queue with
  | [] => s
  | r :: rest =>
    let s := { s with store := { s.store with queue := rest } }
    let bytes := s.slotBytes r.slot
    let ok := imageCrcOk bytes
    let s := when' (!ok) (invalidateSlot r.slot) s
    match s.findOrder r.order with
    | some k => loadingEnd k ok (readImage bytes) s
    | none => s

/-! ## Releases (R100) -/

/-- R100 step 1, R138, R149: whether the release of an order finds the positions it needs. -/
def State.releaseHomed (s : State) (o : Order) : Bool :=
  o.entries.all fun e =>
    (s.chan e.chan).positionKnown ||
    (!o.staged && (match e.goal with
      | some (.at _) => false
      | _ => true))

/-- R125: whether a jog's end lies reached in its direction. -/
def jogArrived (cfg : ChannelSetup) (ch : Channel) (d : Dir) : Bool :=
  match d with
  | .dirIn => alreadyThere cfg ch .endIn
  | .dirOut => alreadyThere cfg ch .endOut

/-- R100 step 2, R125: an entry at release. -/
def State.releaseEntry (s : State) (e : Entry) : Entry :=
  match e.goal, e.direction with
  | some (.at p), _ => s.targeted (.at p) e
  | some (.distance _), some d => if jogArrived (s.cfg e.chan) (s.chan e.chan) d then { e with state := .arrived } else e
  | _, _ => e

/-- R100: an ARMED order is released; false where step 1 refuses it. -/
def releaseOrder (k : OrderSlot) (s : State) : State × Bool :=
  match s.order k with
  | none => (s, false)
  | some o =>
    if o.state ≠ .armed then (s, false)
    else if !s.releaseHomed o then (s, false)
    else (startOrder k (s.setOrder k { o.mapEntries s.releaseEntry with state := .running, armed := none }), true)

/-! ## Ends asked for by requests (R102, R106) -/

/-- R102: CANCEL of an order. -/
def cancelOrder (k : OrderSlot) (s : State) : State :=
  match s.order k with
  | none => s
  | some o =>
    match o.state with
    | .loading | .armed | .blocked => endOrder k .cancelled none s
    | .running =>
      if o.anyMoving then easeOut k (.final .cancelled none) [] s else endOrder k .cancelled none s
    | .easing | .done | .cancelled | .stopped | .failed | .superseded | .expired => s

/-- R106: an order at STOP_ALL: MOVING and WAIT entries become HALTED, and it ends. -/
def stopAllOrder (k : OrderSlot) (s : State) : State :=
  if s.liveAt k then
    endOrder k .stopped (some .stopAll)
      (s.modOrder k fun o => o.mapEntries fun e => if e.state = .moving then { e with state := .halted } else e)
  else s

end Sys2Proof.Machine
end

