-- ==== Sys2Proof/Machine/Records.lean ====
section
/-! DEFINITION. The records the reading requests return (R201) and the contents of READ_IDENT (R182). -/
namespace Sys2Proof.Machine

/-- R201: a slot number, 0xFF where there is none. -/
def slotByte {n : Nat} : Option (Fin n) → Byte
  | none => 0xFF#8
  | some k => byte k.val

/-- A time in units of a given length, rounded up (R59, R115; notes/assumptions/27.md for the tenths of a second). -/
def roundUp (unit time : Nat) : Nat := (time + (unit - 1)) / unit

/-- A time that may not run, in units rounded up, 0 where it does not run. -/
def remaining (unit : Nat) : Option Nat → Nat
  | none => 0
  | some t => roundUp unit t

/-- R201: the number a channel target carries. -/
def Target.number : Target → Nat
  | .at p => p
  | .endIn => 0
  | .endOut => 0
  | .distance d => d

/-- R30: the role byte of a channel. -/
def State.role (s : State) (c : Chan) : Byte :=
  match s.asmOf c with
  | none => 0#8
  | some a => (s.asmCfg a).kind.role

/-- R201: a channel record, 28 bytes. -/
def State.channelRecord (s : State) (c : Chan) : List Byte :=
  let ch := s.chan c
  [ch.state.code, ch.direction.code, ch.profile.code, ch.target.code] ++ le16 ch.target.number ++
  [ch.pausedFrom.code, byte ch.duty] ++ le16 ch.position ++ [bit ch.positionKnown] ++ le16 ch.travelled ++
  le16 ch.overrun ++ [byte ch.drift, bit ch.contactPos.isSome] ++ le16 (ch.contactPos.getD 0) ++
  [bit ch.inActive, bit ch.outActive, bit ch.auxActive, bit ch.trpActive, faultCode ch.lastFault,
   slotByte s.claims[c], slotByte s.succs[c], slotByte (s.asmOf c), s.role c]

/-- R201: a channel setup record, 31 bytes. -/
def State.setupRecord (s : State) (c : Chan) : List Byte :=
  let bs := encodeChannelSetup (s.cfg c)
  [slotByte (s.asmOf c)] ++ bs.take 8 ++ [0#8] ++ bs.drop 8

/-- R201: an assembly record, 21 bytes. -/
def State.asmRecord (s : State) (a : Asm) : List Byte :=
  let x := s.asmCfg a
  let y := s.asm a
  [x.kind.code, byte x.channels.length] ++ channelSlots x.channels ++ [bit x.needsStance] ++ le16 x.skewTrim ++
  le16 x.skewFault ++ [y.summary.code, bit y.settled, bit y.engaged, y.basis.code] ++ le16s y.skew ++
  [sideCode y.leader, sideCode y.paused]

/-- R201: a hold record, 12 bytes; a free slot reads 0. -/
def State.holdRecord (s : State) (k : HoldSlot) : List Byte :=
  match s.hold k with
  | none => List.replicate 12 0#8
  | some h =>
    [h.state.code, s.holdHandle k, h.owner.code, h.cause.code,
     (match h.subject with
       | none => 0xFF#8
       | some n => byte n),
     h.scope, h.blocks.code, h.style.code, bit h.latched] ++ le16 (remaining Config.sec h.expiry) ++ [faultCode h.detail]

/-- R201: an order summary, 7 bytes; a free slot reads 0. -/
def State.orderSummary (s : State) (k : OrderSlot) : List Byte :=
  match s.order k with
  | none => List.replicate 7 0#8
  | some o =>
    [o.state.code, s.orderHandle k, o.owner.code, o.kind.code, o.mask, reasonCode o.reason, byte o.entries.length]

/-- R201: a directory entry, 16 bytes. -/
def State.dirRecord (s : State) (p : ProfileSlot) : List Byte :=
  let e := s.store.directory[p]
  [e.state.code, profileKindCode e.kind, byte e.count, byte (s.pinned p)] ++
  (e.tag ++ List.replicate 12 0#8).take 12

/-- R151: the RUNNING leveller order: a LEVEL, a STOW or a stance RECALL. -/
def State.levellerSlot (s : State) : Option OrderSlot :=
  allOrders.find? fun k =>
    match s.order k with
    | some o => decide (o.state = .running) && (o.staged || decide (o.kind = .stow))
    | none => false

/-- R151: the handle, stage and pass of the RUNNING leveller order. -/
def State.levellerOrder (s : State) : List Byte :=
  match s.levellerSlot with
  | none => [0xFF#8, 0#8, 0#8]
  | some k =>
    match s.order k with
    | none => [0xFF#8, 0#8, 0#8]
    | some o => [s.orderHandle k, o.stage.code, byte o.pass]

/-- R201: validity, presence of a mean and the mean of an axis. -/
def Axis.bytes (x : Axis) : List Byte := [bit x.valid, bit x.mean.isSome] ++ le16s (x.mean.getD 0)

/-- R151, R201: the leveller record, 22 bytes. -/
def State.levellerRecord (s : State) : List Byte :=
  [s.lev.stance.code] ++ encodeLeveller s.setup.leveller ++ le16s s.lev.residualPitch ++ le16s s.lev.residualRoll ++
  s.tilt.pitch.bytes ++ s.tilt.roll.bytes ++ s.levellerOrder ++ [0#8]

/-- R201: the pending result of an order. -/
def pendingBytes : Option PendingResult → List Byte
  | none => [0#8, 0#8]
  | some .toBlocked => [OrderState.blocked.code, 0#8]
  | some (.final st r) => [st.code, reasonCode r]

/-- R201: a target entry, 4 bytes. -/
def TargetEntry.bytes (t : TargetEntry) : List Byte := [byte t.asm.val, t.target.code] ++ le16 t.target.position

/-- R201: a direction, 0xFF where it is not known. -/
def dirByte : Option Dir → Byte
  | none => 0xFF#8
  | some d => d.code

/-- R201: a channel entry, 6 bytes. -/
def Entry.bytes (e : Entry) : List Byte := [byte e.chan.val, e.claim.code, e.state.code, dirByte e.direction] ++ le16s e.lift

/-- R115, R201: the full record of an order. -/
def Order.bytes (o : Order) (handle : Byte) : List Byte :=
  [o.state.code, handle, o.owner.code, o.kind.code, o.mask, o.profile.code, o.mode.code, bit o.supersede,
   slotByte o.profileSlot, profileKindCode o.profileKind] ++ le16s o.jogDistance ++ pendingBytes o.pending ++
  [o.stage.code, byte o.pass, reasonCode o.reason] ++ le16 (remaining 100000 o.armed) ++
  [byte (remaining Config.sec o.linger), byte o.targets.length, byte o.entries.length, slotByte o.jogChan] ++
  (o.targets.map TargetEntry.bytes).flatten ++ (o.entries.map Entry.bytes).flatten

/-- R183: the tables of READ_RANGE, each with its size and one record's bytes. -/
def State.table (s : State) (code : Byte) : Option (List (List Byte)) :=
  match code.toNat with
  | 0 => some (allChans.map s.channelRecord)
  | 1 => some (allChans.map s.setupRecord)
  | 2 => some (allAsms.map s.asmRecord)
  | 3 => some (allHolds.map s.holdRecord)
  | 4 => some (allOrders.map s.orderSummary)
  | 5 => some (allProfiles.map s.dirRecord)
  | 6 => some [s.levellerRecord]
  | _ => none

/-- R182, R200: the 11 bytes of READ_IDENT. -/
def State.ident (s : State) : List Byte :=
  [0x64#8, 0x01#8, s.sys.status.code, 12#8, 8#8, 32#8, 20#8, 8#8, 2#8, 32#8, 64#8]

end Sys2Proof.Machine
end

