-- ==== Sys2Proof/Machine/Port.lean ====
section
/-! DEFINITION. The command port (chapter 9): answers, and the checks that come before a request's own rule (R178). -/
namespace Sys2Proof.Machine

/-- What a request's rule gives: the state after it, the result code and the data of the answer. -/
abbrev Reply := State × Result × List Byte

/-- A refusal changes nothing and carries no data (R180). -/
def refuse (r : Result) (s : State) : Reply := (s, r, [])

/-- R179: the bytes of an answer. -/
def answerBytes (r : Result) (data : List Byte) : List Byte :=
  let body := [r.code] ++ le16 data.length ++ data
  body ++ [crc8 body]

/-- R175, R179: the answer is built, and the assembler sends it; the check byte itself read 0xFF on SDO. -/
def respond (r : Result) (data : List Byte) (s : State) : State :=
  { s with port := { s.port with
      assembler := .answering, buffer := [], answer := answerBytes r data, sdo := some 0xFF#8, selHigh := false } }

/-- R178 steps 2 and 3: which setup statuses take a request. -/
inductive Gate where
  | always
  | ready
  | order
  deriving DecidableEq, Repr

/-- R178 steps 2 to 6, in order: the first check that fails gives the answer. `form` says whether L matches the request's
argument form (R200). -/
def checkRequest (gate : Gate) (party : Byte) (form : Bool) (rule : State → Reply) (s : State) : Reply :=
  if gate ≠ .always ∧ s.sys.status = .loading then refuse .notReady s
  else if gate = .order ∧ s.sys.status = .unconfigured then refuse .unconfigured s
  else if 7 < party.toNat then refuse .badArgument s
  else if !form then refuse .badArgument s
  else rule s

/-- R178: a request is taken: checked, acted on and answered in one action. Out of reset alone is a frame taken (R198). -/
def takeRequest (gate : Gate) (party : Byte) (form : Bool) (rule : State → Reply) (s : State) : State :=
  if s.awake then
    let (s', r, data) := checkRequest gate party form rule s
    respond r data (settle s')
  else s

/-- R177: a frame whose check byte does not agree. -/
def answerBadCheck (s : State) : State := respond .badCheck [] (raise .portError s)

/-- R176: an over-long frame. -/
def overlong (s : State) : State :=
  raise .portError { s with port := { s.port with
    assembler := .discarding, buffer := [], sdo := some 0xFF#8, selHigh := false } }

/-- R175, R181: SEL rises: the frame ends, whatever it held. -/
def selRises (s : State) : State :=
  if s.awake then
    { s with port := { s.port with assembler := .deselected, buffer := [], answer := [], sdo := none, selHigh := true } }
  else { s with port := { s.port with selHigh := true } }

/-- R175, R181: SEL falls: a frame begins, where SEL was high. -/
def selDrops (s : State) : State :=
  if s.awake && s.port.selHigh then
    { s with port := { s.port with assembler := .receiving, buffer := [], answer := [], selHigh := false } }
  else { s with port := { s.port with selHigh := false } }

/-- Party 0 and the owner may change a record (section 4 of the introduction). -/
def Owner.allows (o : Owner) (party : Nat) : Bool := decide (party = 0) || decide (o = .party party)

end Sys2Proof.Machine
end

