-- ==== Sys2Proof/Machine/Lines.lean ====
section
/-! DEFINITION. The chassis lines, the wind, the tilt meter and the timers of records: what the part does when one of them
changes or expires (chapters 3, 4, 5 and 7). -/
namespace Sys2Proof.Machine

/-! ## Chassis lines (R68 to R72) -/

/-- R69: IGN or PBRK changes. -/
def takeRoad (line : RoadLine) (active : Bool) (s : State) : State :=
  evalRoad { s with mon := (match line with
    | .ign => { s.mon with ign := { active := active, wait := none } }
    | .pbrk => { s.mon with pbrk := { active := active, wait := none } }) }

/-- R70: the LOWV delay state after a change of LOWV. -/
def lowvNext (d : LowvDelay) (active : Bool) : LowvDelay :=
  match d, active with
  | .clear, true => .onDelay Config.lowvOnDelay
  | .onDelay _, false => .clear
  | .held, false => .offDelay Config.lowvOffDelay
  | .offDelay _, true => .held
  | d, _ => d

/-- R70: LOWV changes. -/
def takeLowv (active : Bool) (s : State) : State :=
  { s with mon := { s.mon with
      lowv := { active := active, wait := none }, lowvDelay := lowvNext s.mon.lowvDelay active } }

/-- R70: the on-delay expires. -/
def lowvOnExpires (s : State) : State :=
  match s.mon.lowvDelay with
  | .onDelay _ => evalLowv { s with mon := { s.mon with lowvDelay := .held } }
  | .clear | .held | .offDelay _ => s

/-- R70: the off-delay expires. -/
def lowvOffExpires (s : State) : State :=
  match s.mon.lowvDelay with
  | .offDelay _ => evalLowv { s with mon := { s.mon with lowvDelay := .clear } }
  | .clear | .held | .onDelay _ => s

/-- R72: ESTP changes. -/
def takeEstp (active : Bool) (s : State) : State :=
  evalEstop { s with mon := { s.mon with estp := { active := active, wait := none } } }

/-! ## Wind (R73 to R77) -/

/-- R73: the length of a wind window. -/
def WindWindow.length : WindWindow → Nat
  | .half => 500 * Config.ms
  | .one => 1000 * Config.ms
  | .two => 2000 * Config.ms

/-- R73: the divisor of the speed. -/
def WindWindow.divisor : WindWindow → Nat
  | .half => 8
  | .one => 16
  | .two => 32

/-- R73: where the window counter stops rising. -/
def overCount : Nat := 4095

/-- R73: the speed of a window, at most 255 km/h; an over-count reads 255. -/
def windSpeed (w : WindSetup) (count : Nat) : Nat :=
  if overCount ≤ count then 255 else min 255 (count * w.factor / w.window.divisor)

/-- R73: a pulse on WND. -/
def takePulse (s : State) : State := { s with mon := { s.mon with counter := min overCount (s.mon.counter + 1) } }

/-- R75 step 4: the awnings that are still out. -/
def State.awningsOut (s : State) : List Asm :=
  allAsms.filter fun a => decide ((s.asmCfg a).kind = .awning) && !(s.asm a).settledIn

/-- R75: a trip of the wind logic. Of two awnings that are out, the lower numbered is asked for first
(notes/assumptions/41.md, DESIGN CHOICE). -/
def windTrip (s : State) : State :=
  let s := evalWind { s with mon := { s.mon with run := 0, tripped := true, calm := some 0 } }
  forAll s.awningsOut windRequest s

/-- R74 to R76: the wind logic takes the speed of a window. -/
def judgeWind (speed : Nat) (s : State) : State :=
  let w := s.setup.wind
  let s := raiseIf (decide (w.caution ≤ speed ∧ s.mon.lastSpeed < w.caution)) .windCaution s
  let run := if w.retract ≤ speed then s.mon.run + 1 else 0
  let calm := if s.mon.tripped ∧ w.caution ≤ speed then some 0 else s.mon.calm
  if w.tripWindows ≤ run then windTrip s else { s with mon := { s.mon with run := run, calm := calm } }

/-- R73: a wind window expires. -/
def windowEnds (s : State) : State :=
  if s.mon.window.isSome then
    let speed := windSpeed s.setup.wind s.mon.counter
    let s := judgeWind speed s
    { s with mon := { s.mon with counter := 0, lastSpeed := speed, window := some s.setup.wind.window.length } }
  else s

/-- R76: the calm timer expires. -/
def calmEnds (s : State) : State :=
  if s.mon.calm.isSome then evalWind { s with mon := { s.mon with tripped := false, calm := none } } else s

/-! ## Tilt meter (R135, R136, R141) -/

/-- R135: the reading of a pulse, in hundredths of a degree. -/
def tiltOf (high period : Nat) : Int := Int.tdiv (3750 * (high : Int) - 1875 * period) period

/-- R135: whether a reading is valid; times in microseconds (notes/assumptions/22.md). -/
def tiltValid (high period : Nat) : Bool :=
  decide (1000 ≤ period ∧ period ≤ 50000 ∧ period ≤ 10 * high ∧ 10 * high ≤ 9 * period)

/-- R136: an axis takes a valid reading. -/
def Axis.take (x : Axis) (r : Int) : Axis :=
  let old := if x.valid then x.readings else []
  { valid := true, readings := (old ++ [r]).drop (old.length - 3), timer := some Config.axisTimer }

/-- R136: an axis takes a valid reading, and its fresh count rises. -/
def addReading (axis : TiltAxis) (r : Int) (s : State) : State :=
  match axis with
  | .pitch =>
    { s with tilt := { s.tilt with pitch := s.tilt.pitch.take r }, lev := { s.lev with freshPitch := s.lev.freshPitch + 1 } }
  | .roll =>
    { s with tilt := { s.tilt with roll := s.tilt.roll.take r }, lev := { s.lev with freshRoll := s.lev.freshRoll + 1 } }

/-- R136, R141: whether both fresh counts have reached four. -/
def State.fresh (s : State) : Bool := decide (4 ≤ s.lev.freshPitch) && decide (4 ≤ s.lev.freshRoll)

/-- R141: the slot of the order in SOLVE. -/
def State.solving (s : State) : Option OrderSlot := allOrders.find? fun k => s.inStage k .solve

/-- R141: a SOLVE whose fresh counts have both reached four decides. -/
def solveCheck (s : State) : State :=
  match s.lev.solveTimer, s.solving, s.tilt.pitch.mean, s.tilt.roll.mean with
  | some _, some k, some p, some q =>
    if s.fresh then solveDecision k p q { s with lev := { s.lev with solveTimer := none } } else s
  | _, _, _, _ => s

/-- R135, R136, R141: a period of TLX or TLY completes. -/
def takeTilt (axis : TiltAxis) (high period : Nat) (s : State) : State :=
  if tiltValid high period then solveCheck (addReading axis (tiltOf high period) s) else s

/-- R141: a SOLVE fails NO_TILT. -/
def solveFails (s : State) : State :=
  match s.solving with
  | some k => endOrder k .failed (some .noTilt) s
  | none => s

/-- R136: an axis becomes INVALID. -/
def Axis.lapse : Axis := { valid := false, readings := [], timer := none }

/-- R136, R141: an axis timer expires. -/
def axisEnds (axis : TiltAxis) (s : State) : State :=
  match axis with
  | .pitch =>
    if s.tilt.pitch.timer.isSome then solveFails { s with tilt := { s.tilt with pitch := Axis.lapse } } else s
  | .roll =>
    if s.tilt.roll.timer.isSome then solveFails { s with tilt := { s.tilt with roll := Axis.lapse } } else s

/-- R141: the solve timer expires. -/
def solveEnds (s : State) : State :=
  if s.lev.solveTimer.isSome then solveFails { s with lev := { s.lev with solveTimer := none } } else s

/-- R144: the settle timer expires. -/
def settleEnds (s : State) : State :=
  if s.lev.settleTimer.isSome then
    let s := { s with lev := { s.lev with settleTimer := none } }
    match allOrders.find? fun k => s.inStage k .settle with
    | some k => settleDecision k s
    | none => s
  else s

/-! ## Timers of records (R59, R99, R112) -/

/-- R99: an armed timer expires. -/
def armedEnds (k : OrderSlot) (s : State) : State :=
  match s.order k with
  | none => s
  | some o =>
    if o.state = .armed ∧ o.armed.isSome then raise .armedExpired (endOrder k .expired none s) else s

/-- R112: a linger runs out. -/
def lingerEnds (k : OrderSlot) (s : State) : State :=
  match s.order k with
  | none => s
  | some o => if !o.state.live ∧ o.linger.isSome then s.freeOrder k else s

/-- R59: the expiry of a party hold runs out. -/
def holdEnds (h : HoldSlot) (s : State) : State :=
  match s.hold h with
  | none => s
  | some x => if x.expiry.isSome then raise .holdExpired (removeHold h s) else s

/-- R188: a falling edge on RLS releases every order that is ARMED when it is taken, in ascending slot order
(notes/assumptions/42.md, DESIGN CHOICE). -/
def takeRls (s : State) : State :=
  let armed := allOrders.filter fun k => decide ((s.order k).map (·.state) = some .armed)
  forAll armed (fun k s => (releaseOrder k s).1)
    { s with port := { s.port with rlsHigh := false, rlsWait := none }, pins := { s.pins with rls := false } }

end Sys2Proof.Machine
end

