-- ==== Sys2Proof/Machine/Setup.lean ====
section
/-! DEFINITION. The setup requests (chapter 10) with their live effects (R3, R31, R68, R78), and the commit. -/
namespace Sys2Proof.Machine

/-! ## SET_CHANNEL (R2, R3) -/

/-- R2: the channels of a channel mask, in order. -/
def maskChans (m : Nat) : List Chan := allChans.filter fun c => m.testBit c.val

/-- The working setup with one channel's setup replaced. -/
def setCfg (c : Chan) (x : ChannelSetup) (s : State) : State :=
  { s with setup := { s.setup with channels := s.setup.channels.set c x } }

/-- R3: a change of span or dir_invert: the position is lost without POSITION_LOST, and the ends are consulted. The outcome
of both is handed on once (notes/assumptions/50.md, DESIGN CHOICE). -/
def remeasure (c : Chan) (s : State) : State :=
  let ch := losePosition (s.chan c)
  let ch :=
    if ch.inActive && !ch.outActive then setPosition ch 0
    else if ch.outActive && !ch.inActive then setPosition ch (s.cfg c).span
    else ch
  updChan c ch s

/-- R3: an input recomputed from its raw level; a difference is taken as an input change. -/
def recompute (held now : Bool) (rises falls : State → State) (s : State) : State :=
  if held = now then s else if now then rises s else falls s

/-- R3, R5: the raw levels of a channel's pins. -/
def State.pin (s : State) (c : Chan) : ChanPins := s.pins.chan[c]

/-- R3: ENI recomputed. -/
def recomputeIn (c : Chan) (s : State) : State :=
  recompute (s.chan c).inActive (activeOf (s.cfg c).eniLevel (s.pin c).eni) (takeIn c) (takeEndGone c .inEnd)
    (s.setChan c { s.chan c with eniWait := none })

/-- R3: ENO recomputed. -/
def recomputeOut (c : Chan) (s : State) : State :=
  recompute (s.chan c).outActive (activeOf (s.cfg c).enoLevel (s.pin c).eno) (takeOut c) (takeEndGone c .outEnd)
    (s.setChan c { s.chan c with enoWait := none })

/-- R3: AUX recomputed. -/
def recomputeAux (c : Chan) (s : State) : State :=
  recompute (s.chan c).auxActive (activeOf (s.cfg c).auxLevel (s.pin c).aux) (takeAux c true) (takeAux c false)
    (s.setChan c { s.chan c with auxWait := none })

/-- R3: TRP recomputed. -/
def recomputeTrp (c : Chan) (s : State) : State :=
  recompute (s.chan c).trpActive (activeOf (s.cfg c).trpLevel (s.pin c).trp) (takeTrp c) (takeTrpGone c) s

/-- R3: whether a raw change has waited longer than the filter time. -/
def waitedOut (wait : Option Nat) (filter : Nat) : Bool :=
  match wait with
  | some w => decide (filter * Config.ms ≤ w)
  | none => false

/-- R3: a new filter time: waits already longer complete at once. -/
def refilter (c : Chan) (s : State) : State :=
  let due (w : Channel → Option Nat) (s : State) : Bool := waitedOut (w (s.chan c)) (s.cfg c).filter
  let s := when' (due (·.eniWait) s) (recomputeIn c) s
  let s := when' (due (·.enoWait) s) (recomputeOut c) s
  when' (due (·.auxWait) s) (recomputeAux c) s

/-- R3: a changed end_tolerance takes effect at the channel's next start: the one that was in force stays so until then. -/
def holdTolerance (old : ChannelSetup) (c : Chan) (s : State) : State :=
  s.setChan c { s.chan c with heldTolerance := some (tolerance old (s.chan c)) }

/-- R3: the live effects of a channel's new setup; each line applies only if its field changed. The lines are taken in R3's
own order: span and dir_invert with the ends as they were held, then the polarities, then the filter
(notes/assumptions/49.md, DESIGN CHOICE). Inputs that are recomputed together are taken one after another: ENI, ENO, AUX,
TRP (notes/assumptions/36.md, DESIGN CHOICE). -/
def channelEffects (old : ChannelSetup) (c : Chan) (s : State) : State :=
  let new := s.cfg c
  let s := when' (decide (old.endTolerance ≠ new.endTolerance)) (holdTolerance old c) s
  let s := when' (decide (old.span ≠ new.span ∨ old.dirInvert ≠ new.dirInvert)) (remeasure c) s
  let s := when' (decide (old.eniLevel ≠ new.eniLevel)) (recomputeIn c) s
  let s := when' (decide (old.enoLevel ≠ new.enoLevel)) (recomputeOut c) s
  let s := when' (decide (old.auxLevel ≠ new.auxLevel)) (recomputeAux c) s
  let s := when' (decide (old.trpLevel ≠ new.trpLevel)) (recomputeTrp c) s
  when' (decide (old.filter ≠ new.filter)) (refilter c) s

/-- Whether a channel is a jack. -/
def State.isJack (s : State) (c : Chan) : Bool :=
  match s.asmOf c with
  | some a => decide ((s.asmCfg a).kind = .stance)
  | none => false

/-- R2, R191: SET_CHANNEL writes and acts. The channels that change take their effects in ascending order, each handed on
before the next (notes/assumptions/48.md, DESIGN CHOICE). -/
def writeChannels (cs : List Chan) (x : ChannelSetup) (s : State) : State :=
  let old := s
  let changed := cs.filter fun c => decide ({ x with assembly := s.asmOf c } ≠ s.cfg c)
  let s := forAll changed (fun c s => setCfg c { x with assembly := s.asmOf c } s) s
  let s := forAll changed (fun c s => channelEffects (old.cfg c) c s) s
  evalAll (when' (changed.any s.isJack) leaveSet s)

/-- R2: the rule of SET_CHANNEL. -/
def ruleSetChannel (args : List Byte) (s : State) : Reply :=
  let mask := at16 args 0
  match decodeChannelSetup (args.drop 2) with
  | none => refuse .badArgument s
  | some x =>
    if mask = 0 ∨ 4096 ≤ mask then refuse .badArgument s
    else if (maskChans mask).any (fun c => (s.claims[c]).isSome) then refuse .busy s
    else (writeChannels (maskChans mask) x s, .ok, [])

/-! ## SET_ASSEMBLY (R29 to R31, R192) -/

/-- R30: the records after a write: what the written record names leaves every other record. -/
def rewritten (asms : Vector AsmSetup 8) (a : Asm) (x : AsmSetup) : Vector AsmSetup 8 :=
  (allAsms.foldl
    (fun (v : Vector AsmSetup 8) (b : Asm) =>
      v.set b { v[b] with channels := v[b].channels.filter fun c => decide (c ∉ x.channels) }) asms).set a x

/-- R192: the records that give up a channel. -/
def donors (asms : Vector AsmSetup 8) (a : Asm) (x : AsmSetup) : List Asm :=
  allAsms.filter fun b => decide (b ≠ a) && asms[b].channels.any fun c => decide (c ∈ x.channels)

/-- R192 step 2: the limits of the table after a write. -/
def writeFits (asms : Vector AsmSetup 8) (a : Asm) (x : AsmSetup) : Bool :=
  let new := rewritten asms a x
  (decide (x.kind ≠ .stance) || decide (kindCount new .stance ≤ 1)) &&
  (decide (x.kind ≠ .awning) || decide (kindCount new .awning ≤ 2)) &&
  (donors asms a x).all fun b => new[b].kind.sizeFits new[b].channels.length

/-- R192 step 3: whether a live order names an assembly in its mask. -/
def State.namedLive (s : State) (a : Asm) : Bool :=
  allOrders.any fun k =>
    match s.order k with
    | some o => o.state.live && o.mask.getLsbD a.val
    | none => false

/-- R192 step 3: whether a claim or a live order forbids a write. -/
def State.writeBusy (s : State) (a : Asm) (x : AsmSetup) : Bool :=
  let rs := a :: donors s.setup.asms a x
  let cs := x.channels ++ (rs.map fun b => (s.asmCfg b).channels).flatten
  cs.any (fun c => (s.claims[c]).isSome) || rs.any s.namedLive

/-- R31 step 1: a channel that has changed its assembly loses its contact_pos. -/
def dropContact (old : State) (c : Chan) (s : State) : State :=
  if old.asmOf c = s.asmOf c then s else s.setChan c { s.chan c with contactPos := none }

/-- R40: a record that is no twin keeps no pairing state. -/
def dropPairing (a : Asm) (s : State) : State :=
  match (s.asmCfg a).twin with
  | some _ => s
  | none => s.setAsm a { AsmLive.reset with summary := (s.asm a).summary, settled := (s.asm a).settled }

/-- R31 step 4: whether a write touches the stance. -/
def State.touchesStance (s : State) (a : Asm) (x : AsmSetup) : Bool :=
  decide (x.kind = .stance) || decide ((s.asmCfg a).kind = .stance) ||
  (donors s.setup.asms a x).any fun b => decide ((s.asmCfg b).kind = .stance)

/-- R30, R31, R191: SET_ASSEMBLY writes and acts. The records whose lists changed are computed and handed on one after
another, the written one first (notes/assumptions/40.md, DESIGN CHOICE). -/
def writeAsm (a : Asm) (x : AsmSetup) (s : State) : State :=
  let old := s
  let s := { s with setup := withMembers { s.setup with asms := rewritten s.setup.asms a x } }
  let s := forAll allChans (dropContact old) s
  let s := forAll (a :: donors old.setup.asms a x) (fun b s => dropPairing b (refreshAsm b s)) s
  evalAll (when' (old.touchesStance a x) leaveSet (followStance s))

/-- R192: the record a SET_ASSEMBLY writes. -/
def asmArgs (args : List Byte) : Option (Asm × AsmSetup) :=
  match asmOfByte (at8 args 0),
    decodeAsmSetup (at8 args 1) (at8 args 2) (at8 args 3) (at8 args 4) (at8 args 5) (at8 args 6) (args.drop 8) with
  | some a, some x => some (a, x)
  | _, _ => none

/-- R192: the rule of SET_ASSEMBLY. -/
def ruleSetAssembly (args : List Byte) (s : State) : Reply :=
  match asmArgs args with
  | none => refuse .badArgument s
  | some (a, x) =>
    if !writeFits s.setup.asms a x then refuse .badArgument s
    else if s.writeBusy a x then refuse .busy s
    else (writeAsm a x s, .ok, [])

/-- R200: the argument form of SET_ASSEMBLY. -/
def formSetAssembly (args : List Byte) : Bool :=
  decide ((at8 args 7).toNat ≤ 6) && decide (args.length = 8 + (at8 args 7).toNat)

/-! ## The other setup requests (R193 to R195, R168) -/

/-- R193: the rule of SET_LEVELLER. -/
def ruleSetLeveller (args : List Byte) (s : State) : Reply :=
  match decodeLeveller args with
  | none => refuse .badArgument s
  | some x => (evalAll { s with setup := { s.setup with leveller := x } }, .ok, [])

/-- R78: the live effects of a new wind setup. -/
def windEffects (old new : WindSetup) (s : State) : State :=
  let s :=
    if old.window ≠ new.window then
      { s with mon := { s.mon with counter := 0, run := 0, window := some new.window.length } }
    else s
  match s.mon.calm with
  | some t => if old.calmTime ≠ new.calmTime ∧ new.calmTime * Config.sec ≤ t then calmEnds s else s
  | none => s

/-- R194: the rule of SET_WIND. -/
def ruleSetWind (args : List Byte) (s : State) : Reply :=
  match decodeWind args with
  | none => refuse .badArgument s
  | some x => (evalAll (windEffects s.setup.wind x { s with setup := { s.setup with wind := x } }), .ok, [])

/-- R68, R195: one line recomputed from its raw level under a changed polarity. -/
def recomputeLine (old new : Polarity) (held raw : Bool) (take : Bool → State → State) (s : State) : State :=
  if old = new then s else if held = activeOf new raw then s else take (activeOf new raw) s

/-- R68, R195: the live effects of a new lines setup. Lines that are recomputed together are taken one after another: IGN,
PBRK, LOWV, ESTP (notes/assumptions/39.md, DESIGN CHOICE). -/
def linesEffects (old new : LinesSetup) (s : State) : State :=
  let s := recomputeLine old.ign new.ign s.mon.ign.active s.pins.ign (takeRoad .ign) s
  let s := recomputeLine old.pbrk new.pbrk s.mon.pbrk.active s.pins.pbrk (takeRoad .pbrk) s
  let s := recomputeLine old.lowv new.lowv s.mon.lowv.active s.pins.lowv takeLowv s
  recomputeLine old.estp new.estp s.mon.estp.active s.pins.estp takeEstp s

/-- R195: the rule of SET_LINES. -/
def ruleSetLines (args : List Byte) (s : State) : Reply :=
  match decodeLines args with
  | none => refuse .badArgument s
  | some x => (evalAll (linesEffects s.setup.lines x { s with setup := { s.setup with lines := x } }), .ok, [])

/-- A sweep pair number. -/
def pairOf (b : Byte) : Option (Fin 4) := if h : b.toNat < 4 then some ⟨b.toNat, h⟩ else none

/-- R195: the rule of SET_SWEEP. -/
def ruleSetSweep (args : List Byte) (s : State) : Reply :=
  match pairOf (at8 args 0), decodeSweep (at8 args 1) (at8 args 2) (at8 args 3) with
  | some p, some x =>
    if x.defined ∧ !s.pairLive x then refuse .wrongKind s
    else (evalAll { s with setup := { s.setup with sweep := s.setup.sweep.set p x } }, .ok, [])
  | _, _ => refuse .badArgument s

/-- R168: the rule of SET_PROTECT. -/
def ruleSetProtect (party : Byte) (args : List Byte) (s : State) : Reply :=
  let p := (at8 args 0).toNat
  if 32 < p then refuse .badArgument s
  else if p < s.setup.protect ∧ party ≠ 0#8 then refuse .notOwner s
  else (evalAll { s with setup := { s.setup with protect := p } }, .ok, [])

/-- R196: the rule of COMMIT_SETUP. -/
def ruleCommitSetup (s : State) : Reply :=
  if s.store.state ≠ .idle then refuse .storeBusy s
  else (beginOp .commit .setupArea (setupImage s.setup) s, .ok, [])

end Sys2Proof.Machine
end

