-- ==== Sys2Proof/Machine/Requests.lean ====
section
/-! DEFINITION. The rules of the reading, hold, order and store requests (chapters 3, 5, 8 and 9), as R178 step 6 takes
them: each gives the state after it, its result and the data of its answer. -/
namespace Sys2Proof.Machine

/-! ## Reading requests (R115, R182, R183, R185, R186) -/

/-- R182: the rule of READ_IDENT. -/
def ruleReadIdent (s : State) : Reply := (s, .ok, s.ident)

/-- R185: the rule of READ_NOTICES: the flags returned set are cleared. -/
def ruleReadNotices (s : State) : Reply :=
  ({ s with port := { s.port with word := 0#16 } }, .ok, le16 s.port.word.toNat)

/-- R186: the rule of SET_NOTICE_MASK. -/
def ruleSetNoticeMask (args : List Byte) (s : State) : Reply :=
  ({ s with port := { s.port with mask := BitVec.ofNat 16 (at16 args 0) } }, .ok, [])

/-- R183: the rule of READ_RANGE. -/
def ruleReadRange (args : List Byte) (s : State) : Reply :=
  let first := (at8 args 1).toNat
  let count := (at8 args 2).toNat + 1
  match s.table (at8 args 0) with
  | none => refuse .badArgument s
  | some rs => if rs.length < first + count then refuse .badArgument s else (s, .ok, ((rs.drop first).take count).flatten)

/-- R115: the rule of READ_ORDER. -/
def ruleReadOrder (args : List Byte) (s : State) : Reply :=
  match s.findOrder (at8 args 0) with
  | none => refuse .noSuch s
  | some k =>
    match s.order k with
    | none => refuse .noSuch s
    | some o => (s, .ok, o.bytes (s.orderHandle k))

/-! ## Hold requests (R57 to R59, R63) -/

/-- R57: the expiry that a number of seconds gives, none for 0. -/
def expiryOf (seconds : Nat) : Option Nat := if seconds = 0 then none else some (seconds * Config.sec)

/-- R57: the record of a party hold. -/
def partyHold (party : Nat) (scope : BitVec 8) (blocks : Blocks) (style : Style) (seconds : Nat) : Hold where
  owner   := .party party
  cause   := .party
  subject := none
  scope   := scope
  blocks  := blocks
  style   := style
  latched := false
  state   := .active
  expiry  := expiryOf seconds
  detail  := none

/-- R57: the rule of PLACE_HOLD. -/
def rulePlaceHold (party : Byte) (args : List Byte) (s : State) : Reply :=
  match blocksOf (at8 args 1), styleOf (at8 args 2) with
  | some blocks, some style =>
    if at8 args 0 = 0#8 then refuse .badArgument s
    else match s.freeHoldSlot partyHolds with
      | none => refuse .tableFull s
      | some h => (enterHold h (partyHold party.toNat (at8 args 0) blocks style (at16 args 3)) s, .ok, [s.holdHandle h])
  | _, _ => refuse .badArgument s

/-- R58, R59: the checks LIFT_HOLD and RENEW_HOLD share. -/
def onPartyHold (party handle : Byte) (act : HoldSlot → Hold → State) (s : State) : Reply :=
  match s.findHold handle with
  | none => refuse .noSuch s
  | some h =>
    match s.hold h with
    | none => refuse .noSuch s
    | some x =>
      if x.owner = .monitor then refuse .wrongKind s
      else if !x.owner.allows party.toNat then refuse .notOwner s
      else (act h x, .ok, [])

/-- R58: the rule of LIFT_HOLD. -/
def ruleLiftHold (party : Byte) (args : List Byte) (s : State) : Reply :=
  onPartyHold party (at8 args 0) (fun h _ => removeHold h s) s

/-- R59: the rule of RENEW_HOLD. -/
def ruleRenewHold (party : Byte) (args : List Byte) (s : State) : Reply :=
  onPartyHold party (at8 args 0) (fun h x => s.setHold h { x with expiry := expiryOf (at16 args 1) }) s

/-- R67: an accepted CLEAR_HOLD evaluates the cause and subject it cleared. -/
def evalCleared (x : Hold) (s : State) : State :=
  match x.cause, x.subject with
  | .estop, _ => evalEstop s
  | .fault, some n => if h : n < 8 then evalFault ⟨n, h⟩ s else s
  | _, _ => s

/-- R63: the rule of CLEAR_HOLD. -/
def ruleClearHold (args : List Byte) (s : State) : Reply :=
  match s.findHold (at8 args 0) with
  | none => refuse .noSuch s
  | some h =>
    match s.hold h with
    | none => refuse .noSuch s
    | some x =>
      if !x.latched then refuse .wrongKind s
      else if x.state = .active then refuse .stillPresent s
      else (evalCleared x (removeHold h s), .ok, [])

/-! ## Order requests that create (R93 to R95) -/

/-- A new entry for a channel. It has no direction until its kind, its targets or its stage give one: a jack's of a LEVEL
or a stance RECALL at REACH (notes/assumptions/62.md, DESIGN CHOICE). -/
def newEntry (c : Chan) : Entry where
  chan      := c
  claim     := .held
  state     := .wait
  direction := none
  lift      := 0
  goal      := none
  contact   := false

/-- R90: the entries of channels, in ascending channel order. -/
def entriesFor (cs : List Chan) : List Entry := (allChans.filter fun c => decide (c ∈ cs)).map newEntry

/-- R89: a new order of a party, before its kind's own fields. -/
def newOrder (party : Byte) (kind : OrderKind) (mask : BitVec 8) (mode : StartMode) (supersede : Bool) (cs : List Chan) :
    Order where
  owner       := .party party.toNat
  kind        := kind
  mask        := mask
  targets     := []
  profile     := .creep
  mode        := mode
  supersede   := supersede
  profileSlot := none
  profileKind := none
  jogChan     := none
  jogDistance := 0
  entries     := entriesFor cs
  state       := .armed
  pending     := none
  stage       := .none
  pass        := 0
  reason      := none
  armed       := none
  linger      := none
  image       := none
  recallAhead := false

/-- The channels of the assemblies of a mask. -/
def State.maskMembers (s : State) (m : BitVec 8) : List Chan := ((maskAsms m).map fun a => (s.asmCfg a).channels).flatten

/-- R93 step 8: the questions a new order asks: each WAIT entry's channel in its direction. -/
def Order.asks (o : Order) : List (Chan × Dir) :=
  o.entries.filterMap fun e =>
    match e.state, e.direction with
    | .wait, some d => some (e.chan, d)
    | _, _ => none

/-- R93 step 8: the same question for every channel of a list. -/
def asksAll (cs : List Chan) (d : Dir) : List (Chan × Dir) := cs.map fun c => (c, d)

/-- The end of an order request's arguments: a start mode and a supersede flag. -/
def modeArgs (m f : Byte) : Option (StartMode × Bool) :=
  match startModeOf m, boolOf f with
  | some m, some f => some (m, f)
  | _, _ => none

/-- R200: the target entries of an ORDER_TRAVEL. -/
def targetArgs : List Asm → List Byte → Option (List TargetEntry)
  | [], _ => some []
  | a :: as, k :: lo :: hi :: rest =>
    match orderTargetOf k (un16 lo hi), targetArgs as rest with
    | some t, some ts => some ({ asm := a, target := t } :: ts)
    | _, _ => none
  | _ :: _, _ => none

/-- R200: the argument form of ORDER_TRAVEL. -/
def formOrderTravel (args : List Byte) : Bool :=
  decide (args.length = 4 + 3 * (maskAsms (at8 args 0)).length)

/-- The arguments of an ORDER_TRAVEL, where they lie in their sets. -/
def travelArgs (args : List Byte) : Option (List TargetEntry × Profile × StartMode × Bool) :=
  let as := maskAsms (at8 args 0)
  let n := 1 + 3 * as.length
  match targetArgs as (args.drop 1), profileOf (at8 args n), modeArgs (at8 args (n + 1)) (at8 args (n + 2)) with
  | some ts, some p, some (m, f) => keepIf (!as.isEmpty) (ts, p, m, f)
  | _, _, _ => none

/-- Whether an assembly is a slide or an awning (R94). -/
def State.travels (s : State) (a : Asm) : Bool :=
  decide ((s.asmCfg a).kind = .slide) || decide ((s.asmCfg a).kind = .awning)

/-- R93, R94: the rule of ORDER_TRAVEL. -/
def ruleOrderTravel (party : Byte) (args : List Byte) (s : State) : Reply :=
  match travelArgs args with
  | none => refuse .badArgument s
  | some (ts, p, m, f) =>
    if !ts.all (fun t => s.targetInSpan t.asm t.target) then refuse .badArgument s
    else if !ts.all (fun t => s.travels t.asm) then refuse .wrongKind s
    else if !ts.all (fun t => s.targetHomed t.asm t.target) then refuse .unhomed s
    else
      let o := newOrder party .travel (at8 args 0) m f (s.maskMembers (at8 args 0))
      let o := s.targetAll ts { o with profile := p }
      createOrder o o.asks s

/-- R94, R125: the signed distance of a jog, where it lies in its range. -/
def jogDistanceOf (lo hi : Byte) : Option Int :=
  let d := sx16 lo hi
  keepIf (decide (d ≠ 0 ∧ d.natAbs ≤ 2000)) d

/-- R125: the direction of a jog. -/
def jogDir (d : Int) : Dir := if 0 < d then .dirOut else .dirIn

/-- R125: the order of a jog; for start mode NOW an end reached in its direction makes its entry ARRIVED. -/
def State.jogOrder (s : State) (party : Byte) (c : Chan) (a : Asm) (d : Int) (m : StartMode) (f : Bool) : Order :=
  let there := decide (m = .now) && jogArrived (s.cfg c) (s.chan c) (jogDir d)
  { newOrder party .jog (asmBit a) m f [c] with
    jogChan := some c, jogDistance := d,
    entries := [{ newEntry c with
      direction := some (jogDir d), goal := some (.distance d.natAbs), state := if there then .arrived else .wait }] }

/-- R93, R94, R125: the rule of ORDER_JOG. -/
def ruleOrderJog (party : Byte) (args : List Byte) (s : State) : Reply :=
  match chanOf (at8 args 0), jogDistanceOf (at8 args 1) (at8 args 2), modeArgs (at8 args 3) (at8 args 4) with
  | some c, some d, some (m, f) =>
    match s.asmOf c with
    | none => refuse .wrongKind s
    | some a => createOrder (s.jogOrder party c a d m f) [(c, jogDir d)] s
  | _, _, _ => refuse .badArgument s

/-- Whether every channel of a list has a known position. -/
def State.allKnown (s : State) (cs : List Chan) : Bool := cs.all fun c => (s.chan c).positionKnown

/-- R93, R94, R138: the rule of ORDER_LEVEL. The record reads pass 1 from creation on (notes/assumptions/61.md, DESIGN
CHOICE). -/
def ruleOrderLevel (party : Byte) (args : List Byte) (s : State) : Reply :=
  match modeArgs (at8 args 0) (at8 args 1) with
  | none => refuse .badArgument s
  | some (m, f) =>
    match s.stanceAsm with
    | none => refuse .wrongKind s
    | some a =>
      let cs := (s.asmCfg a).channels
      if !s.allKnown cs then refuse .unhomed s
      else createOrder { newOrder party .level (asmBit a) m f cs with pass := 1 } (asksAll cs .dirOut) s

/-- R147: the entry of a STOW, which has its direction from creation on (notes/assumptions/62.md, DESIGN CHOICE). -/
def stowEntry (e : Entry) : Entry := { e with direction := some .dirIn, goal := some .endIn }

/-- R93, R94, R147: the rule of ORDER_STOW. -/
def ruleOrderStow (party : Byte) (args : List Byte) (s : State) : Reply :=
  match modeArgs (at8 args 0) (at8 args 1) with
  | none => refuse .badArgument s
  | some (m, f) =>
    match s.stanceAsm with
    | none => refuse .wrongKind s
    | some a =>
      let cs := (s.asmCfg a).channels
      createOrder ((newOrder party .stow (asmBit a) m f cs).mapEntries stowEntry) (asksAll cs .dirIn) s

/-- R95: what a directory entry answers a RECALL with a mask: the profile kind, or a refusal. -/
def State.recallKind (s : State) (p : ProfileSlot) (mask : BitVec 8) : Except Result ProfileKind :=
  let e := s.store.directory[p]
  match e.state, e.kind with
  | .empty, _ => .error .empty
  | .invalid, _ => .error .profileInvalid
  | .busy, _ => .error .profileBusy
  | .valid, some .stance =>
    if (maskAsms mask).all (fun a => decide ((s.asmCfg a).kind = .stance)) then .ok .stance else .error .profileMismatch
  | .valid, some .preset => if (maskAsms mask).all s.travels then .ok .preset else .error .profileMismatch
  | .valid, none => .error .profileMismatch

/-- The arguments of an ORDER_RECALL, where they lie in their sets. -/
def recallArgs (args : List Byte) : Option (ProfileSlot × Profile × StartMode × Bool) :=
  match profileSlotOf (at8 args 0), profileOf (at8 args 2), modeArgs (at8 args 3) (at8 args 4) with
  | some slot, some p, some (m, f) => keepIf (decide (at8 args 1 ≠ 0#8)) (slot, p, m, f)
  | _, _, _ => none

/-- R93 to R95: the making of a RECALL whose slot is usable. A stance RECALL reads pass 1 from creation on
(notes/assumptions/61.md, DESIGN CHOICE). -/
def makeRecall (party : Byte) (mask : BitVec 8) (slot : ProfileSlot) (kind : ProfileKind) (p : Profile) (m : StartMode)
    (f : Bool) (s : State) : Reply :=
  let cs := s.maskMembers mask
  let o := { newOrder party .recall mask m f cs with profile := p, profileSlot := some slot, profileKind := some kind }
  match kind with
  | .stance =>
    if !s.allKnown cs then refuse .unhomed s else createOrder { o with pass := 1 } (asksAll cs .dirOut) s
  | .preset => createOrder o [] s

/-- R93 to R95: the rule of ORDER_RECALL. -/
def ruleOrderRecall (party : Byte) (args : List Byte) (s : State) : Reply :=
  match recallArgs args with
  | none => refuse .badArgument s
  | some (slot, p, m, f) =>
    let mask := at8 args 1
    if (maskAsms mask).any (fun a => decide ((s.asmCfg a).kind = .none)) then refuse .wrongKind s
    else match s.recallKind slot mask with
      | .error r => refuse r s
      | .ok kind => makeRecall party mask slot kind p m f s

/-! ## Order requests that name an order (R100 to R102, R106, R112) -/

/-- R101: what an entry answers an AMEND of its RUNNING order. A WAIT entry passes, also one whose channel is IDLE and only
waits for its twin (notes/assumptions/52.md, DESIGN CHOICE). -/
def State.amendEntry (s : State) (t : OrderTarget) (e : Entry) : Result :=
  match e.state with
  | .wait => .ok
  | .arrived | .halted | .faulted => .busy
  | .moving =>
    if (s.chan e.chan).state.pursuing then (if liesAhead (s.chan e.chan) t.goal then .ok else .wrongWay) else .busy

/-- Whether an entry's channel belongs to an assembly. -/
def State.inAsm (s : State) (a : Asm) (e : Entry) : Bool := decide (s.asmOf e.chan = some a)

/-- R101: the answer of the first failing entry in channel order. -/
def State.amendAnswer (s : State) (a : Asm) (t : OrderTarget) (o : Order) : Result :=
  match (o.entries.filter (s.inAsm a)).find? fun e => decide (s.amendEntry t e ≠ .ok) with
  | some e => s.amendEntry t e
  | none => .ok

/-- R101: an entry takes a new target; a WAIT entry and an entry of an ARMED order find their arrival later. -/
def State.retargetEntry (s : State) (t : OrderTarget) (e : Entry) : Entry :=
  if e.state = .moving then { e with goal := some t.goal }
  else { e with goal := some t.goal, direction := t.direction (s.chan e.chan).position, state := .wait }

/-- R101: the order with its target entry replaced. -/
def State.amended (s : State) (a : Asm) (t : OrderTarget) (o : Order) : Order :=
  { o.mapEntries (fun e => if s.inAsm a e then s.retargetEntry t e else e) with
    targets := o.targets.map fun x => if x.asm = a then { x with target := t } else x }

/-- R101: AMEND acts: the entries take the target, and the moving channels their retargets, all in one action, in ascending
channel order (notes/assumptions/63.md, DESIGN CHOICE). -/
def amendOrder (k : OrderSlot) (a : Asm) (t : OrderTarget) (o : Order) (s : State) : State :=
  let moving := (o.entries.filter fun e => s.inAsm a e && decide (e.state = .moving)).map (·.chan)
  let profile := s.sentProfile o
  let s := s.setOrder k (s.amended a t o)
  if o.state = .running then forAll moving (fun c s => retarget c t.goal (profile c) s) s else s

/-- R101 step 2: who may amend an order. -/
def Owner.amends (o : Owner) (party : Nat) : Bool := decide (o ≠ .monitor) && o.allows party

/-- R101 steps 3 to 6 and the action. -/
def amendFound (k : OrderSlot) (o : Order) (a : Option Asm) (t : Option OrderTarget) (s : State) : Reply :=
  if o.kind ≠ .travel then refuse .wrongKind s
  else match a, t with
    | some a, some t =>
      if !o.mask.getLsbD a.val then refuse .badArgument s
      else if !s.targetInSpan a t then refuse .badArgument s
      else if !s.targetHomed a t then refuse .unhomed s
      else match o.state with
        | .armed => (amendOrder k a t o s, .ok, [])
        | .running =>
          match s.amendAnswer a t o with
          | .ok => (amendOrder k a t o s, .ok, [])
          | r => refuse r s
        | .loading | .blocked | .easing | .done | .cancelled | .stopped | .failed | .superseded | .expired =>
          refuse .busy s
    | _, _ => refuse .badArgument s

/-- R101: the rule of AMEND. -/
def ruleAmend (party : Byte) (args : List Byte) (s : State) : Reply :=
  match s.findOrder (at8 args 0) with
  | none => refuse .noSuch s
  | some k =>
    match s.order k with
    | none => refuse .noSuch s
    | some o =>
      if !o.owner.amends party.toNat then refuse .notOwner s
      else amendFound k o (asmOfByte (at8 args 1)) (orderTargetOf (at8 args 2) (at16 args 3)) s

/-- R100, R102, R112: the checks of the requests that name an order by its handle alone. -/
def onOrder (party handle : Byte) (act : OrderSlot → Order → Reply) (s : State) : Reply :=
  match s.findOrder handle with
  | none => refuse .noSuch s
  | some k =>
    match s.order k with
    | none => refuse .noSuch s
    | some o => if !o.owner.allows party.toNat then refuse .notOwner s else act k o

/-- R102: the rule of CANCEL. -/
def ruleCancel (party : Byte) (args : List Byte) (s : State) : Reply :=
  onOrder party (at8 args 0) (fun k _ => (cancelOrder k s, .ok, [])) s

/-- R100: the rule of RELEASE. -/
def ruleRelease (party : Byte) (args : List Byte) (s : State) : Reply :=
  onOrder party (at8 args 0)
    (fun k o =>
      if o.state ≠ .armed then refuse .notArmed s
      else
        let (s', done) := releaseOrder k s
        if done then (s', .ok, []) else refuse .unhomed s) s

/-- R112: the rule of RETIRE. -/
def ruleRetire (party : Byte) (args : List Byte) (s : State) : Reply :=
  onOrder party (at8 args 0) (fun k o => if o.state.live then refuse .busy s else (s.freeOrder k, .ok, [])) s

/-- R106, R184: the rule of STOP_ALL: every channel takes its cut, then every live order ends. The cuts are taken in
ascending channel order, each handed on before the next, and the orders end in slot order (notes/assumptions/58.md, DESIGN
CHOICE). ORDER_END is raised for the request, be an order live or not (notes/assumptions/46.md, DEDUCED). -/
def ruleStopAll (s : State) : Reply :=
  (raise .orderEnd (forAll allOrders stopAllOrder (forAll allChans takeCut s)), .ok, [])

/-! ## Store requests (R158, R163 to R167, R169) -/

/-- R158: bytes written into the staging buffer from an offset on, wrapping after offset 63. -/
def stageBytes (buf : List Byte) (at' : Nat) : List Byte → List Byte
  | [] => buf
  | b :: bs => stageBytes (buf.set (at' % 64) b) (at' + 1) bs

/-- R158: the rule of STAGE_WRITE. -/
def ruleStageWrite (args : List Byte) (s : State) : Reply :=
  let at' := (at8 args 0).toNat
  if 63 < at' then refuse .badArgument s
  else ({ s with store := { s.store with staging := stageBytes s.store.staging at' (args.drop 1) } }, .ok, [])

/-- R200: the argument form of STAGE_WRITE. -/
def formStageWrite (args : List Byte) : Bool := within 2 17 args.length

/-- R200: the argument form of SAVE_PROFILE; it follows from the source. -/
def formSaveProfile (args : List Byte) : Bool :=
  (decide (at8 args 1 = 0#8) && decide (args.length = 2)) || (decide (at8 args 1 = 1#8) && decide (args.length = 16))

/-- R164: whether a PRESET image names one assembly twice, or a STANCE image fails the stance. -/
def State.stagedCheck (s : State) (bs : List Byte) : Option Result :=
  if !imageInRange bs then some .badArgument
  else match readImage bs with
    | some (.preset ts) => if (ts.map (·.asm)).Nodup then none else some .badArgument
    | some (.stance x) => if s.stanceMatches x then none else some .profileMismatch
    | none => some .badArgument

/-- R165: the entry of a jack in a captured image. -/
def State.capturedJack (s : State) (c : Chan) : List Byte :=
  [byte c.val, 0#8] ++ le16 ((s.chan c).position - ((s.chan c).contactPos.getD 0))

/-- R166: the target an assembly's summary gives a captured image. -/
def State.capturedTarget (s : State) (a : Asm) : OrderTarget :=
  match (s.asm a).summary with
  | .atIn => .inn
  | .atOut => .out
  | .between | .unknown =>
    match (s.asmCfg a).channels with
    | c :: _ => .at (s.chan c).position
    | [] => .inn

/-- R165: a captured STANCE image, or its refusal. -/
def State.captureStance (s : State) (trim : Bool) (tag : List Byte) : Except Result (List Byte) :=
  match s.stanceAsm with
  | none => .error .notSet
  | some a =>
    let cs := (s.asmCfg a).channels
    if s.lev.stance ≠ .set then .error .notSet
    else if !cs.all (fun c => (s.chan c).positionKnown && (s.chan c).contactPos.isSome) then .error .unhomed
    else .ok (captureImage .stance trim tag s.lev.residualPitch s.lev.residualRoll (cs.map s.capturedJack))

/-- R166: a captured PRESET image, or its refusal. -/
def State.capturePreset (s : State) (mask : BitVec 8) (tag : List Byte) : Except Result (List Byte) :=
  let as := maskAsms mask
  if as.isEmpty then .error .badArgument
  else if !as.all s.travels then .error .wrongKind
  else if as.any (fun a => decide ((s.asm a).summary = .unknown)) then .error .unhomed
  else
    .ok (captureImage .preset false tag 0 0
      (as.map fun a => ({ asm := a, target := s.capturedTarget a } : TargetEntry).bytes))

/-- R163: what a SAVE_PROFILE names, where step 1 accepts it. -/
inductive SaveSource where
  | staged
  | stance (trim : Bool) (tag : List Byte)
  | preset (mask : BitVec 8) (tag : List Byte)
  deriving DecidableEq, Repr

/-- R163 step 1. -/
def saveArgs (args : List Byte) : Option (ProfileSlot × SaveSource) :=
  match profileSlotOf (at8 args 0) with
  | none => none
  | some p =>
    if at8 args 1 = 0#8 then some (p, .staged)
    else match profileKindOf (at8 args 2), tagOf (slice args 4 12) with
      | some .stance, some _ => (boolOf (at8 args 3)).map fun t => (p, .stance t (slice args 4 12))
      | some .preset, some _ => some (p, .preset (at8 args 3) (slice args 4 12))
      | _, _ => none

/-- R163 step 5: the image of a save, by its source. -/
def State.saveImage (s : State) (src : SaveSource) : Except Result (List Byte) :=
  match src with
  | .staged =>
    match s.stagedCheck s.store.staging with
    | some r => .error r
    | none => .ok s.store.staging
  | .stance trim tag => s.captureStance trim tag
  | .preset mask tag => s.capturePreset mask tag

/-- R163, R167: the checks SAVE_PROFILE and ERASE_PROFILE share. -/
def onSlot (p : ProfileSlot) (act : State → Reply) (s : State) : Reply :=
  if p.val < s.setup.protect then refuse .isProtected s
  else if s.store.state ≠ .idle then refuse .storeBusy s
  else if s.pinned p ≠ 0 then refuse .profileBusy s
  else act s

/-- R163: the rule of SAVE_PROFILE. -/
def ruleSaveProfile (args : List Byte) (s : State) : Reply :=
  match saveArgs args with
  | none => refuse .badArgument s
  | some (p, src) =>
    onSlot p
      (fun s =>
        match s.saveImage src with
        | .error r => refuse r s
        | .ok bs => (beginOp .save (.slot p) (sealImage bs) s, .ok, [])) s

/-- R167: the rule of ERASE_PROFILE. -/
def ruleEraseProfile (args : List Byte) (s : State) : Reply :=
  match profileSlotOf (at8 args 0) with
  | none => refuse .badArgument s
  | some p => onSlot p (fun s => (beginOp .erase (.slot p) [] s, .ok, [])) s

/-- R169: the rule of READ_PROFILE; a failed CRC is answered with the bytes read. -/
def ruleReadProfile (args : List Byte) (s : State) : Reply :=
  match profileSlotOf (at8 args 0) with
  | none => refuse .badArgument s
  | some p =>
    if s.store.state ≠ .idle then refuse .storeBusy s
    else if (s.store.directory[p]).state = .empty then refuse .empty s
    else if imageCrcOk (s.slotBytes p) then (s, .ok, s.slotBytes p)
    else (invalidateSlot p s, .profileInvalid, s.slotBytes p)

end Sys2Proof.Machine
end

