-- ==== Sys2Proof/Machine/StartUp.lean ====
section
/-! DEFINITION. Supply, reset and start-up (R197, R198). -/
namespace Sys2Proof.Machine

/-- R4, R27: DIR stands at the IN level after either reset. -/
def dirsIn (s : State) : State :=
  forAll allChans (fun c s => s.setChan c { s.chan c with dirHigh := dirLevel (s.cfg c) .dirIn }) s

/-- R197 step 1: the setup area is loaded, or the defaults stand and SETUP_LOST is raised. -/
def startUp1 (s : State) : State :=
  match areaSetup s.nv with
  | some x =>
    dirsIn { s with setup := x, sys := { s.sys with nextStatus := .configured, startUp := .step2 } }
  | none =>
    raise .setupLost
      (dirsIn { s with setup := Setup.default, sys := { s.sys with nextStatus := .unconfigured, startUp := .step2 } })

/-- R197 step 2: the directory is scanned. -/
def startUp2 (s : State) : State :=
  let s := scanAll s
  { s with sys := { s.sys with startUp := .step3 } }

/-- R197: the steps before the inputs that are still due. -/
def earlySteps (s : State) : State :=
  match s.sys.startUp with
  | .step1 => startUp2 (startUp1 s)
  | .step2 => startUp2 s
  | .step3 | .done => s

/-- R27: a channel at start-up step 3: its levels, its filters and its position. -/
def loadChannel (cfg : ChannelSetup) (p : ChanPins) (ch : Channel) : Channel :=
  let i := activeOf cfg.eniLevel p.eni
  let o := activeOf cfg.enoLevel p.eno
  let ch := { ch with
    inActive := i, outActive := o, auxActive := activeOf cfg.auxLevel p.aux, trpActive := activeOf cfg.trpLevel p.trp,
    eniWait := none, enoWait := none, auxWait := none }
  if i && !o then setPosition ch 0 else if o && !i then setPosition ch cfg.span else ch

/-- R27: the fault a channel takes at step 3, as in IDLE; with both, TRIP is recorded last. -/
def loadFault (ch : Channel) : Option FaultKind :=
  if ch.trpActive then some .trip else if ch.inActive && ch.outActive then some .sensorConflict else none

/-- R27: one channel at step 3. -/
def startUpChannel (c : Chan) (s : State) : State :=
  let ch := loadChannel (s.cfg c) (s.pin c) (s.chan c)
  match loadFault ch with
  | some k => raise .fault (s.setChan c { ch with lastFault := some k })
  | none => s.setChan c ch

/-- R35: an assembly's summary and settled condition at step 3. -/
def startUpAsm (a : Asm) (s : State) : State :=
  s.setAsm a { s.asm a with summary := s.summaryOf a, settled := s.settledOf a }

/-- R86: the chassis lines, the LOWV delay state and the first wind window at step 3. -/
def startUpLines (s : State) : State :=
  let x := s.setup.lines
  let lowv := activeOf x.lowv s.pins.lowv
  { s with mon := { s.mon with
      ign := { active := activeOf x.ign s.pins.ign, wait := none },
      pbrk := { active := activeOf x.pbrk s.pins.pbrk, wait := none },
      lowv := { active := lowv, wait := none },
      estp := { active := activeOf x.estp s.pins.estp, wait := none },
      lowvDelay := if lowv then .onDelay Config.lowvOnDelay else .clear,
      window := some s.setup.wind.window.length } }

/-- R197 step 3: every block reads its inputs. -/
def startUp3 (pins : Pins) (s : State) : State :=
  let s := { s with pins := pins, port := { s.port with rlsHigh := pins.rls, rlsWait := none } }
  let s := forAll allAsms startUpAsm (forAll allChans startUpChannel (dirsIn s))
  startUpLines { s with lev := { s.lev with stance := s.stanceBySummary } }

/-- R197: steps 3, 4 and 5, one action. -/
def becomeReady (pins : Pins) (s : State) : State :=
  let s := evalAll (startUp3 pins (earlySteps s))
  { s with sys := { s.sys with status := s.sys.nextStatus, startUp := .done } }

/-- R197: supply is applied; every block takes its power-on values, and with RST high steps 1 and 2 run. -/
def powerUp (s : State) : State :=
  let s' := State.afterReset Setup.default (abandonOp s) s.pins s.port.selHigh
    { supply := true, rstLow := s.sys.rstLow, status := .loading, nextStatus := .unconfigured, startUp := .step1 } s.pending
  if s.sys.rstLow then s' else earlySteps s'

/-- R198: supply is lost: what is not in the array is gone. -/
def powerGone (s : State) : State :=
  State.afterReset Setup.default (abandonOp s) s.pins s.port.selHigh
    { supply := false, rstLow := s.sys.rstLow, status := .loading, nextStatus := .unconfigured, startUp := .step1 } s.pending

/-- R198: the part state an RST reset leaves: the status that stood is kept for READY, and step 1 is skipped if it has
completed. -/
def resetPart (x : Part) : Part where
  supply     := x.supply
  rstLow     := true
  status     := .loading
  nextStatus := if x.status = .loading then x.nextStatus else x.status
  startUp    := if x.startUp = .step1 then .step1 else .step2

/-- R198: RST goes low; the working setup is kept. -/
def resetLow (s : State) : State :=
  if s.sys.supply then
    dirsIn (State.afterReset s.setup (abandonOp s) s.pins s.port.selHigh (resetPart s.sys) s.pending)
  else { s with sys := { s.sys with rstLow := true } }

/-- R198: RST rises, and the start-up begins. -/
def resetHigh (s : State) : State :=
  if s.sys.rstLow then
    let s := { s with sys := { s.sys with rstLow := false } }
    if s.sys.supply then earlySteps s else s
  else s

end Sys2Proof.Machine
end

