-- ==== Sys2Proof/Machine/Clock.lean ====
section
/-! DEFINITION. The part's own clock: what an idle step does (notes/assumptions/2.md, 24.md). The next event that is due is
taken as a command; where none is due, a quantum of time passes. -/
namespace Sys2Proof.Machine

/-! ## Events that are due -/

/-- The command that takes a message in flight. -/
def Msg.taken (m : Msg) : Instr :=
  match m with
  | .cut c => .cut c
  | .ease c => .ease c
  | .pause c => .pause c
  | .resume c => .resume c
  | .report r => .channelReport r.chan
  | .skew a _ => .skewReport a
  | .stop n => .stopNotice ⟨n.order.toNat % 8, Nat.mod_lt _ (by decide)⟩

/-- Whether a timer has run out. -/
def ranOut (t : Option Nat) : Bool := decide (t = some 0)

/-- The first of several commands whose condition holds. -/
def firstDue : List (Bool × Instr) → Option Instr
  | [] => none
  | (b, i) :: rest => if b then some i else firstDue rest

/-- R5: whether a raw change has stood for the filter time. -/
def filterDone (held now : Bool) (wait : Option Nat) (filter : Nat) : Bool :=
  decide (held ≠ now) && decide (filter ≤ wait.getD 0)

/-- R5, R7, R8, R23: what is due at a channel. Of several events due at one moment the first of this list is taken, so an end
sensor comes before a stall expiry (notes/assumptions/19.md, DESIGN CHOICE). -/
def State.dueChan (s : State) (c : Chan) : Option Instr :=
  let ch := s.chan c
  let x := s.cfg c
  let p := s.pin c
  let i := activeOf x.eniLevel p.eni
  let o := activeOf x.enoLevel p.eno
  let a := activeOf x.auxLevel p.aux
  let t := activeOf x.trpLevel p.trp
  let f := x.filter * Config.ms
  firstDue
    [(decide (ch.trpActive ≠ t), if t then .trpBecomesActive c else .trpBecomesInactive c),
     (filterDone ch.inActive i ch.eniWait f, if i then .inBecomesActive c else .endBecomesInactive c .inEnd),
     (filterDone ch.outActive o ch.enoWait f, if o then .outBecomesActive c else .endBecomesInactive c .outEnd),
     (filterDone ch.auxActive a ch.auxWait f, .auxChange c a),
     (ranOut ch.stallTimer, .stallTimerExpiry c),
     (ranOut ch.rampTimer, .rampInterval c),
     (ranOut ch.coastTimer, .coastWindowExpiry c)]

/-- R70: whether the on-delay has run out. -/
def LowvDelay.onOver : LowvDelay → Bool
  | .onDelay 0 => true
  | _ => false

/-- R70: whether the off-delay has run out. -/
def LowvDelay.offOver : LowvDelay → Bool
  | .offDelay 0 => true
  | _ => false

/-- R76: whether the calm timer has run for the calm time. -/
def State.calmOver (s : State) : Bool :=
  match s.mon.calm with
  | some t => decide (s.setup.wind.calmTime * Config.sec ≤ t)
  | none => false

/-- Whether a chassis line's raw change has stood for its filter (R68). -/
def lineDue (x : Line) (now : Bool) : Bool := filterDone x.active now x.wait Config.lineFilter

/-- R68 to R76, R136, R141, R144, R188: what is due at the monitor unit, the meters, the leveller and RLS; of several, the
first of this list (notes/assumptions/19.md, DESIGN CHOICE). -/
def State.dueUnits (s : State) : Option Instr :=
  let x := s.setup.lines
  firstDue
    [(lineDue s.mon.estp (activeOf x.estp s.pins.estp), .estpChange (activeOf x.estp s.pins.estp)),
     (lineDue s.mon.ign (activeOf x.ign s.pins.ign), .ignOrPbrkChange .ign (activeOf x.ign s.pins.ign)),
     (lineDue s.mon.pbrk (activeOf x.pbrk s.pins.pbrk), .ignOrPbrkChange .pbrk (activeOf x.pbrk s.pins.pbrk)),
     (lineDue s.mon.lowv (activeOf x.lowv s.pins.lowv), .lowvChange (activeOf x.lowv s.pins.lowv)),
     (s.mon.lowvDelay.onOver, .lowvOnDelayExpiry),
     (s.mon.lowvDelay.offOver, .lowvOffDelayExpiry),
     (ranOut s.mon.window, .windowExpiry),
     (s.calmOver, .calmTimerExpiry),
     (ranOut s.tilt.pitch.timer, .axisTimerExpiry .pitch),
     (ranOut s.tilt.roll.timer, .axisTimerExpiry .roll),
     (ranOut s.lev.solveTimer, .solveTimerExpiry),
     (ranOut s.lev.settleTimer, .settleTimerExpiry),
     (filterDone s.port.rlsHigh s.pins.rls s.port.rlsWait Config.lineFilter && s.port.rlsHigh, .rlsFallingEdge)]

/-- R159, R171, R172: what is due at the store. A step that has run out is taken before a guard that comes to be met at the
same moment (notes/assumptions/54.md, DESIGN CHOICE). -/
def State.dueStore (s : State) : Option Instr :=
  match s.store.state, s.store.op with
  | .idle, _ => if s.store.queue.isEmpty then none else some .serveRead
  | .erasing, some op =>
    if op.remaining = 0 then some (.eraseStepEnd [])
    else if Config.guardTime ≤ op.guard ∧ s.store.queue ≠ [] then some .guardMet else none
  | .programming, some op =>
    if op.remaining = 0 then some (.rowStepEnd [])
    else if Config.guardTime ≤ op.guard ∧ s.store.queue ≠ [] then some .guardMet else none
  | .suspended, some _ => if ranOut s.store.halt then some .haltComplete else none
  | _, none => none

/-- R99, R112: what is due at an order slot. -/
def State.dueOrder (s : State) (k : OrderSlot) : Option Instr :=
  match s.order k with
  | none => none
  | some o =>
    firstDue
      [(decide (o.state = .armed) && ranOut o.armed, .armedTimerExpiry k),
       (!o.state.live && ranOut o.linger, .lingerExpiry k)]

/-- R59: what is due at a hold slot. -/
def State.dueHold (s : State) (h : HoldSlot) : Option Instr :=
  match s.hold h with
  | none => none
  | some x => if ranOut x.expiry then some (.holdExpiry h) else none

/-- The next event of the part's own, if one is due: start-up steps, messages between blocks, the store, inputs and
timers, in the order of notes/assumptions/19.md (DESIGN CHOICE). -/
def State.selfEvent (s : State) : Option Instr :=
  if !s.awake then none
  else if s.sys.status = .loading then some (.ready s.pins)
  else match s.inFlight with
    | m :: _ => some m.taken
    | [] =>
      (s.dueStore).or ((allChans.findSome? s.dueChan).or ((s.dueUnits).or
        ((allOrders.findSome? s.dueOrder).or (allHolds.findSome? s.dueHold))))

/-! ## The passing of time -/

/-- A timer after a quantum. -/
def runDown (t : Option Nat) : Option Nat := t.map (· - Config.quantum)

/-- R5: how long a raw change has waited, after a quantum. -/
def waitOn (held now : Bool) (wait : Option Nat) : Option Nat :=
  if held = now then none else some (wait.getD 0 + Config.quantum)

/-- A channel after a quantum. -/
def tickChan (cfg : ChannelSetup) (p : ChanPins) (ch : Channel) : Channel :=
  { ch with
    rampTimer := runDown ch.rampTimer, stallTimer := runDown ch.stallTimer, coastTimer := runDown ch.coastTimer,
    eniWait := waitOn ch.inActive (activeOf cfg.eniLevel p.eni) ch.eniWait,
    enoWait := waitOn ch.outActive (activeOf cfg.enoLevel p.eno) ch.enoWait,
    auxWait := waitOn ch.auxActive (activeOf cfg.auxLevel p.aux) ch.auxWait }

/-- A chassis line after a quantum. -/
def tickLine (now : Bool) (x : Line) : Line := { x with wait := waitOn x.active now x.wait }

/-- The LOWV delay after a quantum. -/
def tickLowv : LowvDelay → LowvDelay
  | .onDelay t => .onDelay (t - Config.quantum)
  | .offDelay t => .offDelay (t - Config.quantum)
  | .clear => .clear
  | .held => .held

/-- The monitor unit after a quantum. -/
def tickMon (x : LinesSetup) (p : Pins) (m : Monitor) : Monitor :=
  { m with
    ign := tickLine (activeOf x.ign p.ign) m.ign, pbrk := tickLine (activeOf x.pbrk p.pbrk) m.pbrk,
    lowv := tickLine (activeOf x.lowv p.lowv) m.lowv, estp := tickLine (activeOf x.estp p.estp) m.estp,
    lowvDelay := tickLowv m.lowvDelay, window := runDown m.window, calm := m.calm.map (· + Config.quantum) }

/-- An axis of the tilt meter after a quantum. -/
def tickAxis (x : Axis) : Axis := { x with timer := runDown x.timer }

/-- The store after a quantum: its step and its guard run while it works, its halt while it is SUSPENDED (R159, R172). -/
def tickStore (x : Store) : Store :=
  match x.state, x.op with
  | .erasing, some op | .programming, some op =>
    { x with op := some { op with remaining := op.remaining - Config.quantum, guard := op.guard + Config.quantum } }
  | .suspended, _ => { x with halt := runDown x.halt }
  | _, _ => x

/-- An order after a quantum. -/
def tickOrder (k : OrderSlot) (s : State) : State :=
  s.modOrder k fun o => { o with armed := runDown o.armed, linger := runDown o.linger }

/-- A hold after a quantum. -/
def tickHold (h : HoldSlot) (s : State) : State :=
  match s.hold h with
  | some x => s.setHold h { x with expiry := runDown x.expiry }
  | none => s

/-- R188: RLS after a quantum: a rise is taken once the high level has stood for the filter time. -/
def tickRls (now : Bool) (x : Port) : Port :=
  let wait := waitOn x.rlsHigh now x.rlsWait
  if now && decide (Config.lineFilter ≤ wait.getD 0) then { x with rlsHigh := true, rlsWait := none }
  else { x with rlsWait := wait }

/-- A quantum of time passes (notes/assumptions/2.md). -/
def tick (s : State) : State :=
  let s := forAll allChans (fun c s => s.setChan c (tickChan (s.cfg c) (s.pin c) (s.chan c))) s
  let s := forAll allHolds tickHold (forAll allOrders tickOrder s)
  { s with
    mon := tickMon s.setup.lines s.pins s.mon,
    tilt := { pitch := tickAxis s.tilt.pitch, roll := tickAxis s.tilt.roll },
    lev := { s.lev with solveTimer := runDown s.lev.solveTimer, settleTimer := runDown s.lev.settleTimer },
    store := tickStore s.store,
    port := tickRls s.pins.rls s.port }

end Sys2Proof.Machine
end

