-- ==== Sys2Proof/Machine/Events.lean ====
section
/-! DEFINITION. The events of the part: pins, counts, timers, messages between blocks, store completions, supply and reset
(chapters 1 to 10). A meaning is one line over the operation of the block that takes the event. -/
namespace Sys2Proof.Machine

/-- R197, R198: an event is taken from READY on; BLOCKED wind orders are reconsidered at the end of its action. -/
def whenUp (f : State → State) (s : State) : State := if s.up then settle (f s) else s

/-- Change the raw levels of a channel's pins. -/
def setPin (c : Chan) (f : ChanPins → ChanPins) (s : State) : State :=
  { s with pins := { s.pins with chan := s.pins.chan.set c (f s.pins.chan[c]) } }

/-! ## Inputs of a channel -/

/-- R5, R19: ENI has become active after its filter. -/
def eventIn (c : Chan) (s : State) : State :=
  if (s.chan c).inActive then s
  else
    takeIn c (setPin c (fun p => { p with eni := levelOf (s.cfg c).eniLevel true })
      (s.setChan c { s.chan c with eniWait := none }))

/-- R5, R20: ENO has become active after its filter. -/
def eventOut (c : Chan) (s : State) : State :=
  if (s.chan c).outActive then s
  else
    takeOut c (setPin c (fun p => { p with eno := levelOf (s.cfg c).enoLevel true })
      (s.setChan c { s.chan c with enoWait := none }))

/-- R5, R25: an end input has become inactive after its filter. -/
def eventEndGone (c : Chan) (e : End) (s : State) : State :=
  match e with
  | .inEnd =>
    if (s.chan c).inActive then
      takeEndGone c .inEnd (setPin c (fun p => { p with eni := levelOf (s.cfg c).eniLevel false })
        (s.setChan c { s.chan c with eniWait := none }))
    else s
  | .outEnd =>
    if (s.chan c).outActive then
      takeEndGone c .outEnd (setPin c (fun p => { p with eno := levelOf (s.cfg c).enoLevel false })
        (s.setChan c { s.chan c with enoWait := none }))
    else s

/-- R5, R134: AUX has changed after its filter. -/
def eventAux (c : Chan) (active : Bool) (s : State) : State :=
  if (s.chan c).auxActive = active then s
  else
    takeAux c active (setPin c (fun p => { p with aux := levelOf (s.cfg c).auxLevel active })
      (s.setChan c { s.chan c with auxWait := none }))

/-- R5, R24: TRP has become active. -/
def eventTrp (c : Chan) (s : State) : State :=
  if (s.chan c).trpActive then s
  else takeTrp c (setPin c (fun p => { p with trp := levelOf (s.cfg c).trpLevel true }) s)

/-- R5, R24: TRP has become inactive. -/
def eventTrpGone (c : Chan) (s : State) : State :=
  if (s.chan c).trpActive then takeTrpGone c (setPin c (fun p => { p with trp := levelOf (s.cfg c).trpLevel false }) s)
  else s

/-- IN_BECOMES_ACTIVE (R19). -/
def execInBecomesActive (c : Chan) (s : State) : Host.Outcome State Fault Refusal := .next (whenUp (eventIn c) s)

/-- OUT_BECOMES_ACTIVE (R20). -/
def execOutBecomesActive (c : Chan) (s : State) : Host.Outcome State Fault Refusal := .next (whenUp (eventOut c) s)

/-- END_BECOMES_INACTIVE (R5, R25). -/
def execEndBecomesInactive (c : Chan) (e : End) (s : State) : Host.Outcome State Fault Refusal :=
  .next (whenUp (eventEndGone c e) s)

/-- AUX_CHANGE (R134). -/
def execAuxChange (c : Chan) (active : Bool) (s : State) : Host.Outcome State Fault Refusal :=
  .next (whenUp (eventAux c active) s)

/-- TRP_BECOMES_ACTIVE (R24). -/
def execTrpBecomesActive (c : Chan) (s : State) : Host.Outcome State Fault Refusal := .next (whenUp (eventTrp c) s)

/-- TRP_BECOMES_INACTIVE (R24). -/
def execTrpBecomesInactive (c : Chan) (s : State) : Host.Outcome State Fault Refusal := .next (whenUp (eventTrpGone c) s)

/-! ## Counts and timers of a channel -/

/-- R16, R140: a count, and then what the leveller makes of one that travelled takes in (notes/assumptions/68.md, DESIGN
CHOICE). -/
def eventCount (c : Chan) (s : State) : State :=
  let t := takeCount c s
  when' (decide ((t.chan c).travelled ≠ (s.chan c).travelled)) (reachLimit c) t

/-- R8: the ramp interval expires, if it runs. -/
def eventRamp (c : Chan) (s : State) : State := if (s.chan c).rampTimer.isSome then takeRamp c s else s

/-- R23: the stall timer expires, if it runs. -/
def eventStall (c : Chan) (s : State) : State := if (s.chan c).stallTimer.isSome then takeStall c s else s

/-- R7: the coast window expires. -/
def eventCoast (c : Chan) (s : State) : State := s.setChan c { s.chan c with coastTimer := none }

/-- COUNT (R16 to R18, R21, R22). -/
def execCount (c : Chan) (s : State) : Host.Outcome State Fault Refusal := .next (whenUp (eventCount c) s)

/-- RAMP_INTERVAL (R8). -/
def execRampInterval (c : Chan) (s : State) : Host.Outcome State Fault Refusal := .next (whenUp (eventRamp c) s)

/-- STALL_TIMER_EXPIRY (R23). -/
def execStallTimerExpiry (c : Chan) (s : State) : Host.Outcome State Fault Refusal := .next (whenUp (eventStall c) s)

/-- COAST_WINDOW_EXPIRY (R7). -/
def execCoastWindowExpiry (c : Chan) (s : State) : Host.Outcome State Fault Refusal := .next (whenUp (eventCoast c) s)

/-! ## Commands of other blocks to a channel -/

/-- PAUSE (R12). -/
def execPause (c : Chan) (s : State) : Host.Outcome State Fault Refusal :=
  .next (whenUp (fun s => takePause c (s.unsend (.pause c))) s)

/-- RESUME (R12). -/
def execResume (c : Chan) (s : State) : Host.Outcome State Fault Refusal :=
  .next (whenUp (fun s => takeResume c (s.unsend (.resume c))) s)

/-- CUT (R13). -/
def execCut (c : Chan) (s : State) : Host.Outcome State Fault Refusal :=
  .next (whenUp (fun s => takeCut c (s.unsend (.cut c))) s)

/-- EASE (R14). -/
def execEase (c : Chan) (s : State) : Host.Outcome State Fault Refusal :=
  .next (whenUp (fun s => takeEase c (s.unsend (.ease c))) s)

/-! ## What the order engine takes from its neighbours -/

/-- Whether a message is a report of a channel. -/
def Msg.isReport (c : Chan) (m : Msg) : Bool :=
  match m with
  | .report r => decide (r.chan = c)
  | .cut _ | .ease _ | .pause _ | .resume _ | .skew _ _ | .stop _ => false

/-- Whether a message is a SKEW report of an assembly. -/
def Msg.isSkew (a : Asm) (m : Msg) : Bool :=
  match m with
  | .skew b _ => decide (b = a)
  | .cut _ | .ease _ | .pause _ | .resume _ | .report _ | .stop _ => false

/-- Whether a message is a stop notice for the order of a slot. -/
def Msg.isStop (k : OrderSlot) (m : Msg) : Bool :=
  match m with
  | .stop n => decide (n.order.toNat % 8 = k.val)
  | .cut _ | .ease _ | .pause _ | .resume _ | .report _ | .skew _ _ => false

/-- What the order engine does with a message it takes. -/
def takeMsg (m : Msg) (s : State) : State :=
  match m with
  | .report r => takeReport r s
  | .skew a h => takeSkew a h s
  | .stop n => takeStop n s
  | .cut _ | .ease _ | .pause _ | .resume _ => s

/-- Take the oldest message in flight that meets a test. -/
def takeOldest (p : Msg → Bool) (s : State) : State :=
  match takeFirst p s.inFlight with
  | some (m, rest) => takeMsg m { s with inFlight := rest }
  | none => s

/-- CHANNEL_REPORT (R98). -/
def execChannelReport (c : Chan) (s : State) : Host.Outcome State Fault Refusal :=
  .next (whenUp (takeOldest (Msg.isReport c)) s)

/-- SKEW_REPORT (R98, R109). -/
def execSkewReport (a : Asm) (s : State) : Host.Outcome State Fault Refusal := .next (whenUp (takeOldest (Msg.isSkew a)) s)

/-- STOP_NOTICE (R55, R107). -/
def execStopNotice (o : OrderSlot) (s : State) : Host.Outcome State Fault Refusal :=
  .next (whenUp (takeOldest (Msg.isStop o)) s)

/-! ## Chassis lines and wind -/

/-- R68, R69: IGN or PBRK has changed after its filter. -/
def eventRoad (line : RoadLine) (active : Bool) (s : State) : State :=
  match line with
  | .ign =>
    if s.mon.ign.active = active then s
    else takeRoad .ign active { s with pins := { s.pins with ign := levelOf s.setup.lines.ign active } }
  | .pbrk =>
    if s.mon.pbrk.active = active then s
    else takeRoad .pbrk active { s with pins := { s.pins with pbrk := levelOf s.setup.lines.pbrk active } }

/-- R68, R70: LOWV has changed after its filter. -/
def eventLowv (active : Bool) (s : State) : State :=
  if s.mon.lowv.active = active then s
  else takeLowv active { s with pins := { s.pins with lowv := levelOf s.setup.lines.lowv active } }

/-- R68, R72: ESTP has changed after its filter. -/
def eventEstp (active : Bool) (s : State) : State :=
  if s.mon.estp.active = active then s
  else takeEstp active { s with pins := { s.pins with estp := levelOf s.setup.lines.estp active } }

/-- IGN_OR_PBRK_CHANGE (R69). -/
def execIgnOrPbrkChange (line : RoadLine) (active : Bool) (s : State) : Host.Outcome State Fault Refusal :=
  .next (whenUp (eventRoad line active) s)

/-- LOWV_CHANGE (R70). -/
def execLowvChange (active : Bool) (s : State) : Host.Outcome State Fault Refusal := .next (whenUp (eventLowv active) s)

/-- LOWV_ON_DELAY_EXPIRY (R70). -/
def execLowvOnDelayExpiry (s : State) : Host.Outcome State Fault Refusal := .next (whenUp lowvOnExpires s)

/-- LOWV_OFF_DELAY_EXPIRY (R70). -/
def execLowvOffDelayExpiry (s : State) : Host.Outcome State Fault Refusal := .next (whenUp lowvOffExpires s)

/-- ESTP_CHANGE (R72). -/
def execEstpChange (active : Bool) (s : State) : Host.Outcome State Fault Refusal := .next (whenUp (eventEstp active) s)

/-- WND_PULSE (R73). -/
def execWndPulse (s : State) : Host.Outcome State Fault Refusal := .next (whenUp takePulse s)

/-- WINDOW_EXPIRY (R73 to R77, R113). -/
def execWindowExpiry (s : State) : Host.Outcome State Fault Refusal := .next (whenUp windowEnds s)

/-- CALM_TIMER_EXPIRY (R76). -/
def execCalmTimerExpiry (s : State) : Host.Outcome State Fault Refusal := .next (whenUp calmEnds s)

/-! ## Tilt meter and leveller -/

/-- TILT_READING (R135, R136, R142, R150). -/
def execTiltReading (axis : TiltAxis) (high period : Nat) (s : State) : Host.Outcome State Fault Refusal :=
  .next (whenUp (takeTilt axis high period) s)

/-- AXIS_TIMER_EXPIRY (R136). -/
def execAxisTimerExpiry (axis : TiltAxis) (s : State) : Host.Outcome State Fault Refusal := .next (whenUp (axisEnds axis) s)

/-- SOLVE_TIMER_EXPIRY (R141). -/
def execSolveTimerExpiry (s : State) : Host.Outcome State Fault Refusal := .next (whenUp solveEnds s)

/-- SETTLE_TIMER_EXPIRY (R144, R150). -/
def execSettleTimerExpiry (s : State) : Host.Outcome State Fault Refusal := .next (whenUp settleEnds s)

/-! ## Timers of records, and RLS -/

/-- ARMED_TIMER_EXPIRY (R99). -/
def execArmedTimerExpiry (o : OrderSlot) (s : State) : Host.Outcome State Fault Refusal := .next (whenUp (armedEnds o) s)

/-- LINGER_EXPIRY (R112). -/
def execLingerExpiry (o : OrderSlot) (s : State) : Host.Outcome State Fault Refusal := .next (whenUp (lingerEnds o) s)

/-- HOLD_EXPIRY (R59). -/
def execHoldExpiry (h : HoldSlot) (s : State) : Host.Outcome State Fault Refusal := .next (whenUp (holdEnds h) s)

/-- RLS_FALLING_EDGE (R100, R188). -/
def execRlsFallingEdge (s : State) : Host.Outcome State Fault Refusal := .next (whenUp takeRls s)

/-! ## The profile store -/

/-- R172: the halt completes: the head of the queue is served, and the halted step resumes. -/
def haltDone (s : State) : State := if s.store.state = .suspended then resumeOp (serveHead s) else s

/-- R171: an IDLE store serves the head of its queue. -/
def serveIdle (s : State) : State := if s.store.state = .idle then serveHead s else s

/-- ERASE_STEP_END (R160, R161, R162). -/
def execEraseStepEnd (flaws : List Host.Cell) (s : State) : Host.Outcome State Fault Refusal :=
  .next (whenUp (eraseEnd flaws) s)

/-- ROW_STEP_END (R160, R162). -/
def execRowStepEnd (flaws : List Host.Cell) (s : State) : Host.Outcome State Fault Refusal := .next (whenUp (rowEnd flaws) s)

/-- GUARD_MET (R172). -/
def execGuardMet (s : State) : Host.Outcome State Fault Refusal := .next (whenUp meetGuard s)

/-- HALT_COMPLETE (R172, R173). -/
def execHaltComplete (s : State) : Host.Outcome State Fault Refusal := .next (whenUp haltDone s)

/-- SERVE_READ (R171, R173). -/
def execServeRead (s : State) : Host.Outcome State Fault Refusal := .next (whenUp serveIdle s)

/-! ## The part -/

/-- POWER_ON (R197). -/
def execPowerOn (s : State) : Host.Outcome State Fault Refusal := .next (powerUp s)

/-- RST_ASSERT (R198). -/
def execRstAssert (s : State) : Host.Outcome State Fault Refusal := .next (resetLow s)

/-- RST_RELEASE (R198). -/
def execRstRelease (s : State) : Host.Outcome State Fault Refusal := .next (resetHigh s)

/-- READY (R197 steps 3 to 5). -/
def execReady (pins : Pins) (s : State) : Host.Outcome State Fault Refusal :=
  .next (if s.awake ∧ s.sys.status = .loading then settle (becomeReady pins s) else s)

/-- POWER_LOSS (R174, R198). -/
def execPowerLoss (s : State) : Host.Outcome State Fault Refusal := .next (powerGone s)

end Sys2Proof.Machine
end

