-- ==== Sys2Proof/Machine/HoldRequests.lean ====
section
/-! DEFINITION. The hold requests (chapter 3). -/
namespace Sys2Proof.Machine

/-- R178, R57: PLACE_HOLD. -/
def reqPlaceHold (party : Byte) (args : List Byte) (s : State) : State :=
  takeRequest .ready party (decide (args.length = 5)) (rulePlaceHold party args) s

/-- PLACE_HOLD (R57). -/
def execPlaceHold (party : Byte) (args : List Byte) (s : State) : Host.Outcome State Fault Refusal :=
  .next (reqPlaceHold party args s)

/-- R178, R58: LIFT_HOLD. -/
def reqLiftHold (party : Byte) (args : List Byte) (s : State) : State :=
  takeRequest .ready party (decide (args.length = 1)) (ruleLiftHold party args) s

/-- LIFT_HOLD (R58). -/
def execLiftHold (party : Byte) (args : List Byte) (s : State) : Host.Outcome State Fault Refusal :=
  .next (reqLiftHold party args s)

/-- R178, R59: RENEW_HOLD. -/
def reqRenewHold (party : Byte) (args : List Byte) (s : State) : State :=
  takeRequest .ready party (decide (args.length = 3)) (ruleRenewHold party args) s

/-- RENEW_HOLD (R59). -/
def execRenewHold (party : Byte) (args : List Byte) (s : State) : Host.Outcome State Fault Refusal :=
  .next (reqRenewHold party args s)

/-- R178, R63: CLEAR_HOLD. -/
def reqClearHold (party : Byte) (args : List Byte) (s : State) : State :=
  takeRequest .ready party (decide (args.length = 1)) (ruleClearHold args) s

/-- CLEAR_HOLD (R63). -/
def execClearHold (party : Byte) (args : List Byte) (s : State) : Host.Outcome State Fault Refusal :=
  .next (reqClearHold party args s)

end Sys2Proof.Machine
end

