-- ==== Sys2Proof/Machine/OrderRequests.lean ====
section
/-! DEFINITION. The order requests (chapter 5). -/
namespace Sys2Proof.Machine

/-- R178, R94: ORDER_TRAVEL. -/
def reqOrderTravel (party : Byte) (args : List Byte) (s : State) : State :=
  takeRequest .order party (formOrderTravel args) (ruleOrderTravel party args) s

/-- ORDER_TRAVEL (R94). -/
def execOrderTravel (party : Byte) (args : List Byte) (s : State) : Host.Outcome State Fault Refusal :=
  .next (reqOrderTravel party args s)

/-- R178, R125: ORDER_JOG. -/
def reqOrderJog (party : Byte) (args : List Byte) (s : State) : State :=
  takeRequest .order party (decide (args.length = 5)) (ruleOrderJog party args) s

/-- ORDER_JOG (R125). -/
def execOrderJog (party : Byte) (args : List Byte) (s : State) : Host.Outcome State Fault Refusal :=
  .next (reqOrderJog party args s)

/-- R178, R138: ORDER_LEVEL. -/
def reqOrderLevel (party : Byte) (args : List Byte) (s : State) : State :=
  takeRequest .order party (decide (args.length = 2)) (ruleOrderLevel party args) s

/-- ORDER_LEVEL (R138). -/
def execOrderLevel (party : Byte) (args : List Byte) (s : State) : Host.Outcome State Fault Refusal :=
  .next (reqOrderLevel party args s)

/-- R178, R147: ORDER_STOW. -/
def reqOrderStow (party : Byte) (args : List Byte) (s : State) : State :=
  takeRequest .order party (decide (args.length = 2)) (ruleOrderStow party args) s

/-- ORDER_STOW (R147). -/
def execOrderStow (party : Byte) (args : List Byte) (s : State) : Host.Outcome State Fault Refusal :=
  .next (reqOrderStow party args s)

/-- R178, R95: ORDER_RECALL. -/
def reqOrderRecall (party : Byte) (args : List Byte) (s : State) : State :=
  takeRequest .order party (decide (args.length = 5)) (ruleOrderRecall party args) s

/-- ORDER_RECALL (R95). -/
def execOrderRecall (party : Byte) (args : List Byte) (s : State) : Host.Outcome State Fault Refusal :=
  .next (reqOrderRecall party args s)

/-- R178, R101: AMEND. -/
def reqAmend (party : Byte) (args : List Byte) (s : State) : State :=
  takeRequest .order party (decide (args.length = 5)) (ruleAmend party args) s

/-- AMEND (R101). -/
def execAmend (party : Byte) (args : List Byte) (s : State) : Host.Outcome State Fault Refusal :=
  .next (reqAmend party args s)

/-- R178, R102: CANCEL. -/
def reqCancel (party : Byte) (args : List Byte) (s : State) : State :=
  takeRequest .order party (decide (args.length = 1)) (ruleCancel party args) s

/-- CANCEL (R102). -/
def execCancel (party : Byte) (args : List Byte) (s : State) : Host.Outcome State Fault Refusal :=
  .next (reqCancel party args s)

/-- R178, R100: RELEASE. -/
def reqRelease (party : Byte) (args : List Byte) (s : State) : State :=
  takeRequest .order party (decide (args.length = 1)) (ruleRelease party args) s

/-- RELEASE (R100). -/
def execRelease (party : Byte) (args : List Byte) (s : State) : Host.Outcome State Fault Refusal :=
  .next (reqRelease party args s)

/-- R178, R112: RETIRE. -/
def reqRetire (party : Byte) (args : List Byte) (s : State) : State :=
  takeRequest .order party (decide (args.length = 1)) (ruleRetire party args) s

/-- RETIRE (R112). -/
def execRetire (party : Byte) (args : List Byte) (s : State) : Host.Outcome State Fault Refusal :=
  .next (reqRetire party args s)

/-- R178, R106: STOP_ALL. -/
def reqStopAll (party : Byte) (args : List Byte) (s : State) : State :=
  takeRequest .order party (decide (args.length = 0)) ruleStopAll s

/-- STOP_ALL (R106). -/
def execStopAll (party : Byte) (args : List Byte) (s : State) : Host.Outcome State Fault Refusal :=
  .next (reqStopAll party args s)

end Sys2Proof.Machine
end

