-- ==== Sys2Proof/Machine/ReadingRequests.lean ====
section
/-! DEFINITION. The reading requests and the notice mask (chapter 9). -/
namespace Sys2Proof.Machine

/-- R178, R182: READ_IDENT, taken in every setup status. -/
def reqReadIdent (party : Byte) (args : List Byte) (s : State) : State :=
  takeRequest .always party (decide (args.length = 0)) ruleReadIdent s

/-- READ_IDENT (R182). -/
def execReadIdent (party : Byte) (args : List Byte) (s : State) : Host.Outcome State Fault Refusal :=
  .next (reqReadIdent party args s)

/-- R178, R185: READ_NOTICES, taken in every setup status. -/
def reqReadNotices (party : Byte) (args : List Byte) (s : State) : State :=
  takeRequest .always party (decide (args.length = 0)) ruleReadNotices s

/-- READ_NOTICES (R185). -/
def execReadNotices (party : Byte) (args : List Byte) (s : State) : Host.Outcome State Fault Refusal :=
  .next (reqReadNotices party args s)

/-- R178, R186: SET_NOTICE_MASK. -/
def reqSetNoticeMask (party : Byte) (args : List Byte) (s : State) : State :=
  takeRequest .ready party (decide (args.length = 2)) (ruleSetNoticeMask args) s

/-- SET_NOTICE_MASK (R186). -/
def execSetNoticeMask (party : Byte) (args : List Byte) (s : State) : Host.Outcome State Fault Refusal :=
  .next (reqSetNoticeMask party args s)

/-- R178, R183: READ_RANGE. -/
def reqReadRange (party : Byte) (args : List Byte) (s : State) : State :=
  takeRequest .ready party (decide (args.length = 3)) (ruleReadRange args) s

/-- READ_RANGE (R183). -/
def execReadRange (party : Byte) (args : List Byte) (s : State) : Host.Outcome State Fault Refusal :=
  .next (reqReadRange party args s)

/-- R178, R115: READ_ORDER. -/
def reqReadOrder (party : Byte) (args : List Byte) (s : State) : State :=
  takeRequest .ready party (decide (args.length = 1)) (ruleReadOrder args) s

/-- READ_ORDER (R115). -/
def execReadOrder (party : Byte) (args : List Byte) (s : State) : Host.Outcome State Fault Refusal :=
  .next (reqReadOrder party args s)

end Sys2Proof.Machine
end

