-- ==== Sys2Proof/Machine/SetupRequests.lean ====
section
/-! DEFINITION. The setup requests (chapter 10). -/
namespace Sys2Proof.Machine

/-- R178, R2: SET_CHANNEL. -/
def reqSetChannel (party : Byte) (args : List Byte) (s : State) : State :=
  takeRequest .ready party (decide (args.length = 31)) (ruleSetChannel args) s

/-- SET_CHANNEL (R2). -/
def execSetChannel (party : Byte) (args : List Byte) (s : State) : Host.Outcome State Fault Refusal :=
  .next (reqSetChannel party args s)

/-- R178, R192: SET_ASSEMBLY. -/
def reqSetAssembly (party : Byte) (args : List Byte) (s : State) : State :=
  takeRequest .ready party (formSetAssembly args) (ruleSetAssembly args) s

/-- SET_ASSEMBLY (R192). -/
def execSetAssembly (party : Byte) (args : List Byte) (s : State) : Host.Outcome State Fault Refusal :=
  .next (reqSetAssembly party args s)

/-- R178, R193: SET_LEVELLER. -/
def reqSetLeveller (party : Byte) (args : List Byte) (s : State) : State :=
  takeRequest .ready party (decide (args.length = 5)) (ruleSetLeveller args) s

/-- SET_LEVELLER (R193). -/
def execSetLeveller (party : Byte) (args : List Byte) (s : State) : Host.Outcome State Fault Refusal :=
  .next (reqSetLeveller party args s)

/-- R178, R194: SET_WIND. -/
def reqSetWind (party : Byte) (args : List Byte) (s : State) : State :=
  takeRequest .ready party (decide (args.length = 7)) (ruleSetWind args) s

/-- SET_WIND (R194). -/
def execSetWind (party : Byte) (args : List Byte) (s : State) : Host.Outcome State Fault Refusal :=
  .next (reqSetWind party args s)

/-- R178, R195: SET_LINES. -/
def reqSetLines (party : Byte) (args : List Byte) (s : State) : State :=
  takeRequest .ready party (decide (args.length = 4)) (ruleSetLines args) s

/-- SET_LINES (R195). -/
def execSetLines (party : Byte) (args : List Byte) (s : State) : Host.Outcome State Fault Refusal :=
  .next (reqSetLines party args s)

/-- R178, R195: SET_SWEEP. -/
def reqSetSweep (party : Byte) (args : List Byte) (s : State) : State :=
  takeRequest .ready party (decide (args.length = 4)) (ruleSetSweep args) s

/-- SET_SWEEP (R195). -/
def execSetSweep (party : Byte) (args : List Byte) (s : State) : Host.Outcome State Fault Refusal :=
  .next (reqSetSweep party args s)

/-- R178, R196: COMMIT_SETUP. -/
def reqCommitSetup (party : Byte) (args : List Byte) (s : State) : State :=
  takeRequest .ready party (decide (args.length = 0)) ruleCommitSetup s

/-- COMMIT_SETUP (R196). -/
def execCommitSetup (party : Byte) (args : List Byte) (s : State) : Host.Outcome State Fault Refusal :=
  .next (reqCommitSetup party args s)

/-- R178, R168: SET_PROTECT. -/
def reqSetProtect (party : Byte) (args : List Byte) (s : State) : State :=
  takeRequest .ready party (decide (args.length = 1)) (ruleSetProtect party args) s

/-- SET_PROTECT (R168). -/
def execSetProtect (party : Byte) (args : List Byte) (s : State) : Host.Outcome State Fault Refusal :=
  .next (reqSetProtect party args s)

end Sys2Proof.Machine
end

