-- ==== Sys2Proof/Machine/StoreRequests.lean ====
section
/-! DEFINITION. The store requests (chapter 8). -/
namespace Sys2Proof.Machine

/-- R178, R158: STAGE_WRITE. -/
def reqStageWrite (party : Byte) (args : List Byte) (s : State) : State :=
  takeRequest .ready party (formStageWrite args) (ruleStageWrite args) s

/-- STAGE_WRITE (R158). -/
def execStageWrite (party : Byte) (args : List Byte) (s : State) : Host.Outcome State Fault Refusal :=
  .next (reqStageWrite party args s)

/-- R178, R163: SAVE_PROFILE. -/
def reqSaveProfile (party : Byte) (args : List Byte) (s : State) : State :=
  takeRequest .ready party (formSaveProfile args) (ruleSaveProfile args) s

/-- SAVE_PROFILE (R163). -/
def execSaveProfile (party : Byte) (args : List Byte) (s : State) : Host.Outcome State Fault Refusal :=
  .next (reqSaveProfile party args s)

/-- R178, R169: READ_PROFILE. -/
def reqReadProfile (party : Byte) (args : List Byte) (s : State) : State :=
  takeRequest .ready party (decide (args.length = 1)) (ruleReadProfile args) s

/-- READ_PROFILE (R169). -/
def execReadProfile (party : Byte) (args : List Byte) (s : State) : Host.Outcome State Fault Refusal :=
  .next (reqReadProfile party args s)

/-- R178, R167: ERASE_PROFILE. -/
def reqEraseProfile (party : Byte) (args : List Byte) (s : State) : State :=
  takeRequest .ready party (decide (args.length = 1)) (ruleEraseProfile args) s

/-- ERASE_PROFILE (R167). -/
def execEraseProfile (party : Byte) (args : List Byte) (s : State) : Host.Outcome State Fault Refusal :=
  .next (reqEraseProfile party args s)

end Sys2Proof.Machine
end

