-- ==== Sys2Proof/Machine/Frames.lean ====
section
/-! DEFINITION. Frames: the bytes of the command port, one at a time, and the frames that carry no request (R175 to R181). -/
namespace Sys2Proof.Machine

/-- R178 step 1: a code that names no request. -/
def answerUnknown (s : State) : State := respond .unknownRequest [] s

/-- R178, R200: the request of a frame by its code. -/
def dispatch (code party : Byte) (args : List Byte) (s : State) : State :=
  match code.toNat with
  | 0x01 => reqReadIdent party args s
  | 0x02 => reqReadNotices party args s
  | 0x03 => reqSetNoticeMask party args s
  | 0x08 => reqReadRange party args s
  | 0x09 => reqReadOrder party args s
  | 0x10 => reqSetChannel party args s
  | 0x11 => reqSetAssembly party args s
  | 0x12 => reqSetLeveller party args s
  | 0x13 => reqSetWind party args s
  | 0x14 => reqSetLines party args s
  | 0x15 => reqSetSweep party args s
  | 0x16 => reqCommitSetup party args s
  | 0x44 => reqSetProtect party args s
  | 0x20 => reqPlaceHold party args s
  | 0x21 => reqLiftHold party args s
  | 0x22 => reqRenewHold party args s
  | 0x23 => reqClearHold party args s
  | 0x30 => reqOrderTravel party args s
  | 0x31 => reqOrderJog party args s
  | 0x32 => reqOrderLevel party args s
  | 0x33 => reqOrderStow party args s
  | 0x34 => reqOrderRecall party args s
  | 0x38 => reqAmend party args s
  | 0x39 => reqCancel party args s
  | 0x3A => reqRelease party args s
  | 0x3B => reqRetire party args s
  | 0x3F => reqStopAll party args s
  | 0x40 => reqStageWrite party args s
  | 0x41 => reqSaveProfile party args s
  | 0x42 => reqReadProfile party args s
  | 0x43 => reqEraseProfile party args s
  | _ => answerUnknown s

/-- R177, R178: the check byte of a frame has completed. -/
def takeFrame (frame : List Byte) (s : State) : State :=
  let body := frame.dropLast
  if crc8 body = at8 frame body.length then dispatch (at8 frame 0) (at8 frame 1) (body.drop 3) s else answerBadCheck s

/-- R175, R176: a byte completes in RECEIVING. -/
def receive (b : Byte) (s : State) : State :=
  let frame := s.port.buffer ++ [b]
  let n := (at8 frame 2).toNat
  if frame.length = 3 ∧ 32 < n then overlong s
  else if 4 ≤ frame.length ∧ frame.length = 4 + n then takeFrame frame s
  else { s with port := { s.port with buffer := frame, sdo := some 0xFF#8 } }

/-- R175, R179: a byte completes in ANSWERING: the next answer byte has gone out; after the last, TRAILING. -/
def sendAnswer (s : State) : State :=
  match s.port.answer with
  | [] => { s with port := { s.port with assembler := .trailing, sdo := some 0x00#8 } }
  | b :: bs =>
    { s with port := { s.port with
        assembler := if bs.isEmpty then .trailing else .answering, answer := bs, sdo := some b } }

/-- R175: a byte completes, by the state of the frame assembler. -/
def takeByte (b : Byte) (s : State) : State :=
  match s.port.assembler with
  | .deselected => s
  | .receiving => receive b s
  | .discarding => { s with port := { s.port with sdo := some 0xFF#8 } }
  | .answering => sendAnswer s
  | .trailing => { s with port := { s.port with sdo := some 0x00#8 } }

/-- Do something only out of reset and with supply (R198). -/
def whenAwake (f : State → State) (s : State) : State := if s.awake then f s else s

/-- BAD_CHECK (R177): a frame whose check byte does not agree is answered, and PORT_ERROR is raised. -/
def execBadCheck (s : State) : Host.Outcome State Fault Refusal := .next (whenAwake answerBadCheck s)

/-- UNKNOWN_REQUEST (R178): a frame whose code names no request is answered. -/
def execUnknownRequest (s : State) : Host.Outcome State Fault Refusal := .next (whenAwake answerUnknown s)

/-- FRAME_OVERLONG (R176): L above 32: DISCARDING and PORT_ERROR. -/
def execFrameOverlong (s : State) : Host.Outcome State Fault Refusal := .next (whenAwake overlong s)

/-- FRAME_ABANDONED (R181): SEL rises before the check byte completes; no effect but on the assembler. -/
def execFrameAbandoned (s : State) : Host.Outcome State Fault Refusal := .next (selRises s)

/-- SEL_FALLS (R175): a frame begins. -/
def execSelFalls (s : State) : Host.Outcome State Fault Refusal := .next (selDrops s)

/-- BYTE_COMPLETE (R175): the eighth SCK pulse of a byte. -/
def execByteComplete (sdi : Byte) (s : State) : Host.Outcome State Fault Refusal := .next (whenAwake (takeByte sdi) s)

/-- FRAME_END (R175): SEL rises; the rest of an answer is dropped. -/
def execFrameEnd (s : State) : Host.Outcome State Fault Refusal := .next (selRises s)

end Sys2Proof.Machine
end

