-- ==== Sys2Proof/Machine/Dispatch.lean ====
section
/-! DEFINITION. One arm per command: each calls its meaning. -/
namespace Sys2Proof.Machine

/-- The effect of a command on everything but the queue. -/
def exec (i : Instr) (s : State) : Host.Outcome State Fault Refusal :=
  match i with
  | .readIdent party args => Sys2Proof.Machine.execReadIdent party args s
  | .readNotices party args => Sys2Proof.Machine.execReadNotices party args s
  | .setNoticeMask party args => Sys2Proof.Machine.execSetNoticeMask party args s
  | .readRange party args => Sys2Proof.Machine.execReadRange party args s
  | .readOrder party args => Sys2Proof.Machine.execReadOrder party args s
  | .setChannel party args => Sys2Proof.Machine.execSetChannel party args s
  | .setAssembly party args => Sys2Proof.Machine.execSetAssembly party args s
  | .setLeveller party args => Sys2Proof.Machine.execSetLeveller party args s
  | .setWind party args => Sys2Proof.Machine.execSetWind party args s
  | .setLines party args => Sys2Proof.Machine.execSetLines party args s
  | .setSweep party args => Sys2Proof.Machine.execSetSweep party args s
  | .commitSetup party args => Sys2Proof.Machine.execCommitSetup party args s
  | .placeHold party args => Sys2Proof.Machine.execPlaceHold party args s
  | .liftHold party args => Sys2Proof.Machine.execLiftHold party args s
  | .renewHold party args => Sys2Proof.Machine.execRenewHold party args s
  | .clearHold party args => Sys2Proof.Machine.execClearHold party args s
  | .orderTravel party args => Sys2Proof.Machine.execOrderTravel party args s
  | .orderJog party args => Sys2Proof.Machine.execOrderJog party args s
  | .orderLevel party args => Sys2Proof.Machine.execOrderLevel party args s
  | .orderStow party args => Sys2Proof.Machine.execOrderStow party args s
  | .orderRecall party args => Sys2Proof.Machine.execOrderRecall party args s
  | .amend party args => Sys2Proof.Machine.execAmend party args s
  | .cancel party args => Sys2Proof.Machine.execCancel party args s
  | .release party args => Sys2Proof.Machine.execRelease party args s
  | .retire party args => Sys2Proof.Machine.execRetire party args s
  | .stopAll party args => Sys2Proof.Machine.execStopAll party args s
  | .stageWrite party args => Sys2Proof.Machine.execStageWrite party args s
  | .saveProfile party args => Sys2Proof.Machine.execSaveProfile party args s
  | .readProfile party args => Sys2Proof.Machine.execReadProfile party args s
  | .eraseProfile party args => Sys2Proof.Machine.execEraseProfile party args s
  | .setProtect party args => Sys2Proof.Machine.execSetProtect party args s
  | .badCheck => Sys2Proof.Machine.execBadCheck s
  | .unknownRequest => Sys2Proof.Machine.execUnknownRequest s
  | .frameOverlong => Sys2Proof.Machine.execFrameOverlong s
  | .frameAbandoned => Sys2Proof.Machine.execFrameAbandoned s
  | .inBecomesActive c => Sys2Proof.Machine.execInBecomesActive c s
  | .outBecomesActive c => Sys2Proof.Machine.execOutBecomesActive c s
  | .endBecomesInactive c e => Sys2Proof.Machine.execEndBecomesInactive c e s
  | .auxChange c active => Sys2Proof.Machine.execAuxChange c active s
  | .trpBecomesActive c => Sys2Proof.Machine.execTrpBecomesActive c s
  | .trpBecomesInactive c => Sys2Proof.Machine.execTrpBecomesInactive c s
  | .count c => Sys2Proof.Machine.execCount c s
  | .rampInterval c => Sys2Proof.Machine.execRampInterval c s
  | .stallTimerExpiry c => Sys2Proof.Machine.execStallTimerExpiry c s
  | .coastWindowExpiry c => Sys2Proof.Machine.execCoastWindowExpiry c s
  | .pause c => Sys2Proof.Machine.execPause c s
  | .resume c => Sys2Proof.Machine.execResume c s
  | .cut c => Sys2Proof.Machine.execCut c s
  | .ease c => Sys2Proof.Machine.execEase c s
  | .channelReport c => Sys2Proof.Machine.execChannelReport c s
  | .skewReport a => Sys2Proof.Machine.execSkewReport a s
  | .stopNotice o => Sys2Proof.Machine.execStopNotice o s
  | .ignOrPbrkChange line active => Sys2Proof.Machine.execIgnOrPbrkChange line active s
  | .lowvChange active => Sys2Proof.Machine.execLowvChange active s
  | .lowvOnDelayExpiry => Sys2Proof.Machine.execLowvOnDelayExpiry s
  | .lowvOffDelayExpiry => Sys2Proof.Machine.execLowvOffDelayExpiry s
  | .estpChange active => Sys2Proof.Machine.execEstpChange active s
  | .wndPulse => Sys2Proof.Machine.execWndPulse s
  | .windowExpiry => Sys2Proof.Machine.execWindowExpiry s
  | .calmTimerExpiry => Sys2Proof.Machine.execCalmTimerExpiry s
  | .tiltReading axis high period => Sys2Proof.Machine.execTiltReading axis high period s
  | .axisTimerExpiry axis => Sys2Proof.Machine.execAxisTimerExpiry axis s
  | .solveTimerExpiry => Sys2Proof.Machine.execSolveTimerExpiry s
  | .settleTimerExpiry => Sys2Proof.Machine.execSettleTimerExpiry s
  | .armedTimerExpiry o => Sys2Proof.Machine.execArmedTimerExpiry o s
  | .lingerExpiry o => Sys2Proof.Machine.execLingerExpiry o s
  | .holdExpiry h => Sys2Proof.Machine.execHoldExpiry h s
  | .rlsFallingEdge => Sys2Proof.Machine.execRlsFallingEdge s
  | .eraseStepEnd flaws => Sys2Proof.Machine.execEraseStepEnd flaws s
  | .rowStepEnd flaws => Sys2Proof.Machine.execRowStepEnd flaws s
  | .guardMet => Sys2Proof.Machine.execGuardMet s
  | .haltComplete => Sys2Proof.Machine.execHaltComplete s
  | .serveRead => Sys2Proof.Machine.execServeRead s
  | .powerOn => Sys2Proof.Machine.execPowerOn s
  | .rstAssert => Sys2Proof.Machine.execRstAssert s
  | .rstRelease => Sys2Proof.Machine.execRstRelease s
  | .ready pins => Sys2Proof.Machine.execReady pins s
  | .selFalls => Sys2Proof.Machine.execSelFalls s
  | .byteComplete sdi => Sys2Proof.Machine.execByteComplete sdi s
  | .frameEnd => Sys2Proof.Machine.execFrameEnd s
  | .powerLoss => Sys2Proof.Machine.execPowerLoss s

end Sys2Proof.Machine
end

