-- ==== Sys2Proof/Machine/Step.lean ====
section
/-! DEFINITION. One step: the command at the front of the queue, or, with no command waiting, the part's own next event or
the passing of time. -/
namespace Sys2Proof.Machine

/-- What a step does with no command waiting (notes/assumptions/2.md). -/
def idleStep (s : State) : Host.Outcome State Fault Refusal :=
  match s.selfEvent with
  | some i => exec i s
  | none => .next (if s.up then tick s else s)

/-- One step: the command at the front of the queue is executed with the rest of the queue behind it. -/
def step (s : State) : Host.Outcome State Fault Refusal :=
  match s.pending with
  | c :: rest => exec c { s with pending := rest }
  | [] => idleStep s

/-- The state with the command that a word spells put at the front of its queue; unchanged where it spells none. -/
def State.withFetchWord (s : State) (nbits w : Nat) : State :=
  match decodeTableWord nbits w with
  | some i => { s with pending := i :: s.pending }
  | none => s

end Sys2Proof.Machine
end

