-- ==== Sys2Proof/Safety.lean ====
section
/-! DEFINITION. What the model keeps safe: the invariant every step keeps, the live claims, the law of holds, and the
predicates in which the statements speak of states, answers and frames. -/
namespace Sys2Proof.Machine

/-! ## The invariant -/

/-- R153: the array's memory is canonical and lies in the array. -/
def ArraySound (s : State) : Prop := s.nv.mem.wf = true ∧ s.nv.mem.inArray = true

/-- R159: whether a step of an operation is one of its steps. -/
def Operation.inRange (op : Operation) : Bool :=
  match op.step with
  | .erase u => decide (u < op.place.units)
  | .row r => decide (r < op.place.units * 4)

/-- R159: the step in progress, if any, is one of its operation's steps. -/
def StepInRange (s : State) : Prop := ∀ op, s.store.op = some op → op.inRange = true

/-- R158: the staging buffer holds 64 bytes. -/
def StagingSize (s : State) : Prop := s.store.staging.length = 64

/-- R49, R88: every generation lies in its range. -/
def GenerationsInRange (s : State) : Prop :=
  (∀ h : HoldSlot, s.holds[h].gen < 8) ∧ (∀ k : OrderSlot, s.orders[k].gen < 32)

/-- R48: monitor holds stand only in slots 0 to 19, party holds only in slots 20 to 31. -/
def HoldPlacement (s : State) : Prop :=
  ∀ (h : HoldSlot) (x : Hold), s.hold h = some x → (x.owner = .monitor ↔ h.val < 20)

/-- R48: the table holds at most one monitor hold for each cause and subject. -/
def MonitorHoldsUnique (s : State) : Prop :=
  ∀ (h j : HoldSlot) (x y : Hold), h.val < 20 → j.val < 20 → s.hold h = some x → s.hold j = some y →
    x.cause = y.cause → x.subject = y.subject → h = j

/-- R87: an order owned by a party stands in slots 0 to 5, an order owned by MONITOR in slots 6 and 7. -/
def OrderPlacement (s : State) : Prop :=
  ∀ (k : OrderSlot) (o : Order), s.order k = some o → (o.owner = .monitor ↔ 6 ≤ k.val)

/-- R60: the subjects that a monitor hold of each cause can have. -/
def Cause.subjectFits : Cause → Option Nat → Bool
  | .road, none | .lowv, none | .estop, none | .wind, none | .unset, none | .slidesOut, none => true
  | .sweep, some n => decide (n < 4)
  | .fault, some n => decide (n < 8)
  | _, _ => false

/-- R60: every monitor hold has a cause of the monitor unit, with a subject of that cause, and its blocks, style and
latched follow from the cause. -/
def MonitorHoldsFit (s : State) : Prop :=
  ∀ (h : HoldSlot) (x : Hold), s.hold h = some x → x.owner = .monitor →
    x.cause.subjectFits x.subject = true ∧ x.blocks = x.cause.blocks ∧ x.style = x.cause.style ∧
    x.latched = x.cause.latched

/-- R30: the assembly field of every channel setup agrees with the channel lists of the assembly records. -/
def MembersAgree (s : State) : Prop := ∀ c : Chan, (s.cfg c).assembly = memberOf s.setup.asms c

/-- The invariant of the model. -/
structure Inv (s : State) : Prop where
  array       : ArraySound s
  step        : StepInRange s
  staging     : StagingSize s
  generations : GenerationsInRange s
  holds       : HoldPlacement s
  unique      : MonitorHoldsUnique s
  fits        : MonitorHoldsFit s
  orders      : OrderPlacement s
  members     : MembersAgree s
  between     : s.reconsider = false

/-- R92, R111: only live orders claim or await channels. -/
def LiveClaims (s : State) : Prop :=
  ∀ (c : Chan) (k : OrderSlot), s.claims[c] = some k ∨ s.succs[c] = some k → s.liveAt k = true

/-- R53: a channel that moves for the order that claims it, in a direction that a hold of the table blocks on its assembly,
does not pursue unless the hold's stop, or a harder one, is on its way to it; and it does not ease under a CUT hold unless a
cut is. -/
def StoppedByHolds (s : State) : Prop :=
  ∀ (c : Chan) (k : OrderSlot) (o : Order) (e : Entry) (a : Asm) (h : HoldSlot) (x : Hold),
    s.claims[c] = some k → s.order k = some o → e ∈ o.entries → e.chan = c → e.state = .moving → s.asmOf c = some a →
    s.hold h = some x → x.covers a (s.chan c).direction = true →
    ((s.chan c).state.pursuing = true →
      Msg.cut c ∈ s.inFlight ∨ (x.style = .ease ∧ Msg.ease c ∈ s.inFlight)) ∧
    ((s.chan c).state = .easing → x.style = .cut → Msg.cut c ∈ s.inFlight)

/-- R90, R103: an order that awaits a channel is a party's, and its entry for the channel is AWAITED and does not move. -/
def AwaitedDoNotMove (s : State) : Prop :=
  ∀ (c : Chan) (k : OrderSlot), s.succs[c] = some k → k.val < 6 ∧
    ∀ (o : Order) (e : Entry), s.order k = some o → e ∈ o.entries → e.chan = c → e.claim = .awaited ∧ e.state ≠ .moving

/-- R197, R198: while the part takes no events, no order claims a channel. -/
def AsleepClaimsNothing (s : State) : Prop := s.up = false → ∀ c : Chan, s.claims[c] = none

/-- R53: the law of holds, up to the commands still in flight, with what it needs of awaited channels and of a part that is
not past READY. -/
structure LawOfHolds (s : State) : Prop where
  stopped : StoppedByHolds s
  awaited : AwaitedDoNotMove s
  asleep  : AsleepClaimsNothing s

/-! ## Assemblies and their members -/

/-- R29: no channel is named by two assembly records. -/
def Disjoint (asms : Vector AsmSetup 8) : Prop :=
  ∀ (a b : Asm) (c : Chan), c ∈ asms[a].channels → c ∈ asms[b].channels → a = b

/-- R32, R33: the summary and the settled condition of an assembly are what its members give. -/
def FollowsMembers (s : State) (a : Asm) : Prop :=
  let cs := (s.asmCfg a).channels
  let known := (s.asmCfg a).kind ≠ .none ∧ ∀ c ∈ cs, (s.chan c).positionKnown = true
  let allIn := ∀ c ∈ cs, (s.chan c).position = 0
  let allOut := ∀ c ∈ cs, (s.chan c).position = (s.cfg c).span
  (¬known → (s.asm a).summary = .unknown) ∧
  (known → allIn → (s.asm a).summary = .atIn) ∧
  (known → ¬allIn → allOut → (s.asm a).summary = .atOut) ∧
  (known → ¬allIn → ¬allOut → (s.asm a).summary = .between) ∧
  ((s.asm a).settled = true ↔ (s.asmCfg a).kind ≠ .none ∧ (∀ c ∈ cs, (s.chan c).state = .idle) ∧
    ((s.asm a).summary = .atIn ∨ (s.asm a).summary = .atOut))

/-- R32 to R34: every assembly follows its members, with what that needs: R29's limits of the table, and a part that is not
past READY, which has no position and a setup status to take. -/
structure AssembliesFollow (s : State) : Prop where
  follow   : ∀ a : Asm, FollowsMembers s a
  disjoint : Disjoint s.setup.asms
  sizes    : ∀ a : Asm, (s.asmCfg a).kind.sizeFits (s.asmCfg a).channels.length = true
  asleep   : s.up = false → ∀ c : Chan, (s.chan c).positionKnown = false
  next     : s.sys.nextStatus ≠ .loading

/-! ## States between actions -/

/-- The part takes commands: supply, RST high, not LOADING, and no action under way. -/
def State.taking (s : State) : Bool := s.up && !s.reconsider

/-- No action is under way, and no wind retraction order waits BLOCKED, so that R114 has nothing to reconsider. -/
def State.calm (s : State) : Bool :=
  !s.reconsider && allOrders.all fun k => decide ((s.order k).map (·.state) ≠ some .blocked)

/-- The part takes commands, and no wind retraction order waits BLOCKED. -/
def State.quiet (s : State) : Bool := s.up && s.calm

/-- The part takes order requests: it takes commands, and it is CONFIGURED (R178). -/
def State.ordering (s : State) : Bool := s.taking && decide (s.sys.status = .configured)

/-- A working setup every field of which lies in its range and whose tables keep R29 and R30. -/
structure ValidSetup (x : Setup) : Prop where
  channels : ∀ c : Chan, x.channels[c].inRange = true
  kPitch   : ∀ c : Chan, -32768 ≤ x.channels[c].kPitch ∧ x.channels[c].kPitch ≤ 32767
  kRoll    : ∀ c : Chan, -32768 ≤ x.channels[c].kRoll ∧ x.channels[c].kRoll ≤ 32767
  members  : ∀ c : Chan, x.channels[c].assembly = memberOf x.asms c
  asms     : ∀ a : Asm, x.asms[a].inRange = true
  table    : tableFits x.asms = true
  leveller : 5 ≤ x.leveller.tolerance ∧ x.leveller.tolerance ≤ 100 ∧ 1 ≤ x.leveller.maxPasses ∧
    x.leveller.maxPasses ≤ 5 ∧ 500 ≤ x.leveller.settle ∧ x.leveller.settle ≤ 10000 ∧ x.leveller.deadband ≤ 200
  wind     : 5 ≤ x.wind.caution ∧ x.wind.caution ≤ 120 ∧ x.wind.caution < x.wind.retract ∧ x.wind.retract ≤ 150 ∧
    1 ≤ x.wind.tripWindows ∧ x.wind.tripWindows ≤ 10 ∧ 60 ≤ x.wind.calmTime ∧ x.wind.calmTime ≤ 1800 ∧
    1 ≤ x.wind.factor ∧ x.wind.factor ≤ 255
  protect  : x.protect ≤ 32

/-! ## Answers and frames -/

/-- R179: a state in which an answer stands ready to go out. -/
def Answers (t : State) (r : Result) (data : List Byte) : Prop :=
  t.port.assembler = .answering ∧ t.port.answer = answerBytes r data

/-- The commands that the request codes of R200 name, for a party and argument bytes. -/
def requests (p : Byte) (args : List Byte) : List (Nat × Instr) :=
  [(0x01, .readIdent p args), (0x02, .readNotices p args), (0x03, .setNoticeMask p args), (0x08, .readRange p args),
   (0x09, .readOrder p args), (0x10, .setChannel p args), (0x11, .setAssembly p args), (0x12, .setLeveller p args),
   (0x13, .setWind p args), (0x14, .setLines p args), (0x15, .setSweep p args), (0x16, .commitSetup p args),
   (0x20, .placeHold p args), (0x21, .liftHold p args), (0x22, .renewHold p args), (0x23, .clearHold p args),
   (0x30, .orderTravel p args), (0x31, .orderJog p args), (0x32, .orderLevel p args), (0x33, .orderStow p args),
   (0x34, .orderRecall p args), (0x38, .amend p args), (0x39, .cancel p args), (0x3A, .release p args),
   (0x3B, .retire p args), (0x3F, .stopAll p args), (0x40, .stageWrite p args), (0x41, .saveProfile p args),
   (0x42, .readProfile p args), (0x43, .eraseProfile p args), (0x44, .setProtect p args)]

/-- R93 step 7, R103: a live order claims or awaits a channel of a list, and supersede does not allow for it. -/
def ClaimedByOthers (s : State) (party : Byte) (supersede : Bool) (cs : List Chan) : Prop :=
  ∃ c ∈ cs, ∃ (k : OrderSlot) (o : Order), s.order k = some o ∧ o.state.live = true ∧
    (s.claims[c] = some k ∨ s.succs[c] = some k) ∧ (supersede = false ∨ o.owner ≠ .party party.toNat)

/-- R87: a party slot of the order table is free. -/
def PartySlotFree (s : State) : Prop := ∃ k : OrderSlot, k.val < 6 ∧ s.order k = none

/-- R93 steps 6 to 8: the refusals of a request that needs the channels of a list, with the condition under which coverage
answers BLOCKED; a refused request changes nothing. -/
structure RefusedByTables (i : Instr) (party : Byte) (supersede : Bool) (cs : List Chan) (covered : Prop) (s : State) :
    Prop where
  full    : ¬PartySlotFree s → exec i s = .next (respond .tableFull [] s)
  claimed : PartySlotFree s → ClaimedByOthers s party supersede cs → exec i s = .next (respond .claimed [] s)
  held    : PartySlotFree s → ¬ClaimedByOthers s party supersede cs → covered → exec i s = .next (respond .held [] s)

/-- Several bytes complete one after another: what SDO carried during each, and the state after the last. -/
def clockBytes : List Byte → State → Option (List (Option Byte) × State)
  | [], s => some ([], s)
  | b :: bs, s =>
    match exec (.byteComplete b) s with
    | .next t => (clockBytes bs t).map fun r => (t.port.sdo :: r.1, r.2)
    | .fault _ => none
    | .refused _ => none

/-- The frame of an evaluation of holds: everything but the hold table, the monitor unit, the port and messages stands. -/
structure SameBody (s t : State) : Prop where
  setup    : t.setup = s.setup
  channels : t.channels = s.channels
  claims   : t.claims = s.claims
  succs    : t.succs = s.succs
  asms     : t.asms = s.asms
  orders   : t.orders = s.orders
  tilt     : t.tilt = s.tilt
  lev      : t.lev = s.lev
  store    : t.store = s.store
  nv       : t.nv = s.nv
  pins     : t.pins = s.pins
  sys      : t.sys = s.sys
  pending  : t.pending = s.pending

/-- The frame of a command that acts on one channel: the other channels, the claims, the setup, the store, the array and
the part stand. -/
structure SameButChannel (c : Chan) (s t : State) : Prop where
  others  : ∀ d : Chan, d ≠ c → t.chan d = s.chan d
  setup   : t.setup = s.setup
  tilt    : t.tilt = s.tilt
  staging : t.store.staging = s.store.staging
  nv      : t.nv = s.nv
  sys     : t.sys = s.sys
  pending : t.pending = s.pending

/-- The frame of a command that acts on orders and moves nothing: channels, setup, tilt meter, array and part stand. -/
structure SameMotion (s t : State) : Prop where
  channels : t.channels = s.channels
  setup    : t.setup = s.setup
  tilt     : t.tilt = s.tilt
  staging  : t.store.staging = s.store.staging
  nv       : t.nv = s.nv
  pins     : t.pins = s.pins
  sys      : t.sys = s.sys
  pending  : t.pending = s.pending

/-- R93: a request made an ARMED order: it stands in its slot, it claims its channels, nothing moves, and the answer
carries its handle. -/
structure Armed (s t : State) (k : OrderSlot) (o : Order) : Prop where
  order  : t.order k = some o
  state  : o.state = .armed
  timer  : o.armed = some 30000000
  gens   : ∀ j : OrderSlot, t.orders[j].gen = s.orders[j].gen
  others : ∀ j : OrderSlot, j ≠ k → t.order j = s.order j
  claims : ∀ c : Chan, t.claims[c] = if (o.entries.map (·.chan)).contains c then some k else s.claims[c]
  succs  : t.succs = s.succs
  holds  : t.holds = s.holds
  asms   : t.asms = s.asms
  mon    : t.mon = s.mon
  lev    : t.lev = s.lev
  store  : t.store = s.store
  motion : SameMotion s t
  answer : Answers t .ok [s.orderHandle k]

/-- R27, R35, R65, R86, R116, R136, R152, R174, R189: every live record holds what a reset leaves, up to the level of DIR,
the directory and the notice word, which the start-up steps set. No end_tolerance is held back for the next start
(notes/assumptions/71.md, DESIGN CHOICE). -/
structure Fresh (t : State) : Prop where
  channels : ∀ c : Chan, t.chan c = { Channel.reset with dirHigh := (t.chan c).dirHigh }
  claims   : t.claims = Vector.replicate 12 none
  succs    : t.succs = Vector.replicate 12 none
  asms     : t.asms = Vector.replicate 8 AsmLive.reset
  holds    : t.holds = Vector.replicate 32 { gen := 0, hold := none }
  orders   : t.orders = Vector.replicate 8 { gen := 0, order := none }
  mon      : t.mon = Monitor.reset
  tilt     : t.tilt = TiltMeter.reset
  lev      : t.lev = Leveller.reset
  store    : t.store = { Store.reset with directory := t.store.directory }
  mask     : t.port.mask = 0xFFFF#16
  deaf     : t.port.assembler = .deselected ∧ t.port.buffer = [] ∧ t.port.answer = [] ∧ t.port.sdo = none
  between  : t.inFlight = [] ∧ t.reconsider = false

/-- R15: the report of a channel that has ended a motion in a state `t`: an arrival or a halt carries the position where it
is known, and an arrival names the end its target was, or else the end whose sensor it met (notes/assumptions/37.md). -/
def reportIn (t : State) (c : Chan) (rep : ReportKind) (met : Option End) (order : Byte) : Report where
  chan     := c
  kind     := rep
  order    := order
  position := match rep with
    | .arrival | .halt => if (t.chan c).positionKnown then some (t.chan c).position else none
    | .fault _ => none
  atEnd    := match rep, (t.chan c).target with
    | .arrival, .endIn => some .inEnd
    | .arrival, .endOut => some .outEnd
    | .arrival, .at _ | .arrival, .distance _ => met
    | .halt, _ | .fault _, _ => none

/-- R13, R15: a channel has ended its motion with a report: IDLE, at duty 0, its timers stopped, the coast window begun,
and the report, with the position and the end it names, on its way to the order that claims it. -/
structure CameToRest (c : Chan) (rep : ReportKind) (s t : State) (met : Option End := none) : Prop where
  state  : (t.chan c).state = .idle
  duty   : (t.chan c).duty = 0
  stall  : (t.chan c).stallTimer = none
  ramp   : (t.chan c).rampTimer = none
  coast  : (t.chan c).coastTimer = some 200000
  report : ∀ k, s.claims[c] = some k → Msg.report (reportIn t c rep met (s.orderHandle k)) ∈ t.inFlight

/-- R111: an order has ended: its result is written, its linger runs, and it claims and awaits no channel. -/
def Ended (t : State) (k : OrderSlot) (st : OrderState) (r : Option Reason) : Prop :=
  (∃ u, t.order k = some u ∧ u.state = st ∧ u.reason = r ∧ u.pending = none ∧ u.armed = none ∧
    u.linger = some 60000000) ∧
  (∀ c : Chan, t.claims[c] ≠ some k ∧ t.succs[c] ≠ some k) ∧ t.flag .orderEnd = true

/-- R10: a channel that may be driven by a start: IDLE, TRP inactive, and not both ends active. -/
def State.drivable (s : State) (c : Chan) : Bool :=
  decide ((s.chan c).state = .idle) && !(s.chan c).trpActive && !((s.chan c).inActive && (s.chan c).outActive)

/-- R93: no live order claims or awaits any channel of a list. -/
def State.unclaimed (s : State) (cs : List Chan) : Bool :=
  cs.all fun c => decide (s.claims[c] = none ∧ s.succs[c] = none)

/-- R10: a channel that a start drives in a direction toward a target: the record as the start sets it, the motion under
way. -/
def Drives (ch : Channel) (d : Dir) (t : Target) (p : Profile) : Prop :=
  ch.state.driving = true ∧ ch.direction = d ∧ ch.target = t ∧ ch.profile = p ∧ ch.travelled = 0 ∧ ch.overrun = 0 ∧
  ch.lastFault = none ∧ ch.coastTimer = none ∧ ch.stallTimer ≠ none ∧ ch.heldTolerance = none

/-- R10, R125: a channel that a jog has started: direction, target and profile set, and STARTING at creep_duty, or passed
on from it at once where creep_in is 0. -/
def JogDrives (cfg : ChannelSetup) (ch : Channel) (d : Int) : Prop :=
  ch.direction = (if 0 < d then .dirOut else .dirIn) ∧ ch.target = .distance d.natAbs ∧ ch.profile = .creep ∧
  ch.duty = cfg.creepDuty ∧ ch.travelled = 0 ∧ ch.overrun = 0 ∧ ch.lastFault = none ∧ ch.coastTimer = none ∧
  ch.stallTimer = some (cfg.stallTime * 1000) ∧ ch.heldTolerance = none ∧
  ch.state = (if cfg.creepIn = 0 then (if d.natAbs ≤ cfg.approach then .approach else .running) else .starting)

end Sys2Proof.Machine
end

