-- ==== Sys2Proof/Certificates/Slice0/Obligations.lean ====
section
/-! DEFINITION. The statements for the provers, in the order of OBLIGATIONS.json. Times are in microseconds; `taking`,
`quiet`, `ordering` and the frames are those of Safety.lean. A request as a command stands for its whole frame, taken at the
check byte (DESIGN CHOICE, notes/assumptions/1.md); a timer's expiry as a command says that the timer has run out (DESIGN
CHOICE, notes/assumptions/3.md). -/
open Sys2Proof Sys2Proof.Machine

/-! ## The machine as a whole -/

/-- Every command at the front of the queue is executed with the queue's rest behind it. -/
def Obligations.StepTakesTheFrontCommand : Prop :=
  ∀ (c : Instr) (rest : List Instr) (s : State),
    step { s with pending := c :: rest } = exec c { s with pending := rest }

/-- R7, R8, R23, R59, R70, R73, R78, R99, R112, R136, R141, R144, R159, R172: a quantum of 50 microseconds passes: every
timer that runs has 50 microseconds less, the calm timer, the guard and a raw change that waits in a filter 50 more, and RLS
reads high again once it has stood for 10 ms; nothing else changes. -/
def Clause.TimePasses (s t : State) : Prop :=
  let less := fun (x : Option Nat) => x.map (· - 50)
  let waits := fun (held now : Bool) (x : Option Nat) => if held = now then none else some (x.getD 0 + 50)
  let line := fun (x : Line) (level : Polarity) (pin : Bool) => { x with wait := waits x.active (activeOf level pin) x.wait }
  let l := s.setup.lines
  let rises := !s.port.rlsHigh && s.pins.rls && decide (10000 ≤ s.port.rlsWait.getD 0 + 50)
  (∀ c : Chan, t.chan c = { s.chan c with
    stallTimer := less (s.chan c).stallTimer, rampTimer := less (s.chan c).rampTimer,
    coastTimer := less (s.chan c).coastTimer,
    eniWait := waits (s.chan c).inActive (activeOf (s.cfg c).eniLevel s.pins.chan[c].eni) (s.chan c).eniWait,
    enoWait := waits (s.chan c).outActive (activeOf (s.cfg c).enoLevel s.pins.chan[c].eno) (s.chan c).enoWait,
    auxWait := waits (s.chan c).auxActive (activeOf (s.cfg c).auxLevel s.pins.chan[c].aux) (s.chan c).auxWait }) ∧
  (∀ h : HoldSlot, t.holds[h].gen = s.holds[h].gen ∧
    t.hold h = (s.hold h).map fun x => { x with expiry := less x.expiry }) ∧
  (∀ k : OrderSlot, t.orders[k].gen = s.orders[k].gen ∧
    t.order k = (s.order k).map fun o => { o with armed := less o.armed, linger := less o.linger }) ∧
  t.mon = { s.mon with
    ign := line s.mon.ign l.ign s.pins.ign, pbrk := line s.mon.pbrk l.pbrk s.pins.pbrk,
    lowv := line s.mon.lowv l.lowv s.pins.lowv, estp := line s.mon.estp l.estp s.pins.estp,
    lowvDelay := (match s.mon.lowvDelay with
      | .onDelay n => .onDelay (n - 50)
      | .offDelay n => .offDelay (n - 50)
      | .clear => .clear
      | .held => .held),
    window := less s.mon.window, calm := s.mon.calm.map (· + 50) } ∧
  t.tilt.pitch = { s.tilt.pitch with timer := less s.tilt.pitch.timer } ∧
  t.tilt.roll = { s.tilt.roll with timer := less s.tilt.roll.timer } ∧
  t.lev = { s.lev with solveTimer := less s.lev.solveTimer, settleTimer := less s.lev.settleTimer } ∧
  t.store = { s.store with
    op := if s.store.state = .erasing ∨ s.store.state = .programming then
        s.store.op.map fun op => { op with remaining := op.remaining - 50, guard := op.guard + 50 }
      else s.store.op,
    halt := if s.store.state = .suspended then less s.store.halt else s.store.halt } ∧
  t.port = { s.port with
    rlsWait := if rises then none else waits s.port.rlsHigh s.pins.rls s.port.rlsWait, rlsHigh := s.port.rlsHigh || rises } ∧
  t.setup = s.setup ∧ t.claims = s.claims ∧ t.succs = s.succs ∧ t.asms = s.asms ∧ t.nv = s.nv ∧ t.pins = s.pins ∧
  t.sys = s.sys ∧ t.inFlight = s.inFlight ∧ t.reconsider = s.reconsider ∧ t.pending = s.pending

/-- With no command waiting: asleep, nothing; LOADING, the part becomes READY; an event of its own that is due is taken
as its command; otherwise 50 microseconds pass, on every timer (DESIGN CHOICE, notes/assumptions/2.md). -/
def Obligations.EmptyQueueLetsThePartRun : Prop :=
  ∀ s : State, s.pending = [] →
    (s.awake = false → step s = .next s) ∧
    (s.awake = true → s.sys.status = .loading → step s = exec (.ready s.pins) s) ∧
    (∀ i, s.selfEvent = some i → step s = exec i s) ∧
    (s.up = true → s.selfEvent = none → ∃ t, step s = .next t ∧ Clause.TimePasses s t)

/-- What a power-on reset leaves (R27, R35, R65, R86, R116, R136, R152, R174, R189, R190). The array, blank at
State.reset, is the model's choice (notes/assumptions/7.md). -/
def Obligations.ResetValues : Prop :=
  let s := State.reset
  s.sys.status = .loading ∧ s.setup = Setup.default ∧
  (∀ c : Chan, (s.chan c).state = .idle ∧ (s.chan c).drv = 0 ∧ (s.chan c).direction = .dirIn ∧
    (s.chan c).dirHigh = false ∧ (s.chan c).travelled = 0 ∧ (s.chan c).overrun = 0 ∧ (s.chan c).drift = 0 ∧
    (s.chan c).contactPos = none ∧ (s.chan c).lastFault = none ∧ (s.chan c).stallTimer = none ∧
    (s.chan c).rampTimer = none ∧ (s.chan c).coastTimer = none ∧ (s.chan c).positionKnown = false ∧
    s.claims[c] = none ∧ s.succs[c] = none) ∧
  (∀ a : Asm, (s.asm a).summary = .unknown ∧ (s.asm a).settled = false ∧ (s.asm a).engaged = false ∧
    s.mon.latches[a] = none) ∧
  (∀ h : HoldSlot, s.hold h = none ∧ s.holds[h].gen = 0) ∧ (∀ k : OrderSlot, s.order k = none ∧ s.orders[k].gen = 0) ∧
  s.mon.lowvDelay = .clear ∧ s.mon.counter = 0 ∧ s.mon.lastSpeed = 0 ∧ s.mon.run = 0 ∧ s.mon.tripped = false ∧
  s.mon.calm = none ∧ s.tilt.pitch = Axis.lapse ∧ s.tilt.roll = Axis.lapse ∧ s.lev.residualPitch = 0 ∧
  s.lev.residualRoll = 0 ∧ s.lev.freshPitch = 0 ∧ s.lev.freshRoll = 0 ∧ s.store.state = .idle ∧ s.store.op = none ∧
  s.store.queue = [] ∧ s.store.staging = List.replicate 64 0#8 ∧ s.port.assembler = .deselected ∧ s.port.word = 0#16 ∧
  s.port.mask = 0xFFFF#16 ∧ s.atnLow = false ∧ s.inFlight = [] ∧ s.pending = []

/-- Right after reset the invariant holds, only live orders claim or await channels, the law of holds holds, and every
assembly follows its members. -/
def Obligations.ResetIsSound : Prop :=
  Inv State.reset ∧ LiveClaims State.reset ∧ LawOfHolds State.reset ∧ AssembliesFollow State.reset

/-- Every step keeps the invariant: the array canonical and within its 2560 bytes, store steps and generations in range,
the staging buffer of 64 bytes, holds and orders in their slots, monitor holds unique, both copies of membership agreeing. -/
def Obligations.StepKeepsInv : Prop := ∀ s t : State, Inv s → step s = .next t → Inv t

/-- R92, R111: every step keeps it that only live orders claim or await channels. -/
def Obligations.StepKeepsLiveClaims : Prop := ∀ s t : State, Inv s → LiveClaims s → step s = .next t → LiveClaims t

/-- R53: every step keeps the law of holds, up to the commands still in flight: no channel that moves for the order that
claims it pursues in a direction that a hold blocks on its assembly, but where the hold's stop is on its way. That the stop
is a message in flight, taken in a step of its own, is the model's reading (notes/assumptions/4.md). -/
def Obligations.StepKeepsTheLawOfHolds : Prop :=
  ∀ s t : State, Inv s → LiveClaims s → LawOfHolds s → step s = .next t → LawOfHolds t

/-- R32 to R34: every step leaves each assembly's summary and settled condition as its members then give them. -/
def Obligations.StepKeepsAssembliesFollowing : Prop :=
  ∀ s t : State, Inv s → AssembliesFollow s → step s = .next t → AssembliesFollow t

/-- R60: a monitor slot of the hold table is always free. -/
def Obligations.AMonitorSlotIsFree : Prop :=
  ∀ s : State, Inv s → ∃ h : HoldSlot, h.val < 20 ∧ s.hold h = none

/-- R203, R196, R197: the setup image of a valid working setup has 512 bytes, carries its CRC-16, and reads back as that
setup; an array that holds it with the marks of the area CLOSED gives that setup at start-up step 1. That a defined sweep
pair may be dormant in it is notes/assumptions/21.md (DEDUCED). -/
def Obligations.SetupImageReadsBack : Prop :=
  ∀ x : Setup, ValidSetup x →
    (setupImage x).length = 512 ∧ (crc16 ((setupImage x).take 510)).toNat = at16 (setupImage x) 510 ∧
    decodeSetup (setupImage x) = some x ∧
    ∀ nv : NvArray, (∀ u : Fin 40, 32 ≤ u.val → nv.marks[u] = false) → nv.mem.readList 2048 512 = setupImage x →
      areaSetup nv = some x

/-! ## The command port -/

/-- R177: the CRC-8 and its residue; a frame whose check byte differs is answered BAD_CHECK with no data, and nothing
else changes but PORT_ERROR; one whose check byte agrees is taken. -/
def Obligations.CheckByte : Prop :=
  (crc8 [] = 0xFF#8 ∧
    ∀ (bs : List Byte) (b : Byte), crc8 (bs ++ [b]) =
      Nat.repeat (fun x : Byte => if x.msb then (x <<< 1) ^^^ 0x07#8 else x <<< 1) 8 (crc8 bs ^^^ b)) ∧
  (∀ bs : List Byte, crc8 (bs ++ [crc8 bs]) = 0x00#8) ∧
  ∀ (b : Byte) (s : State), s.awake = true → s.port.assembler = .receiving →
    3 ≤ s.port.buffer.length → s.port.buffer.length = 3 + (at8 s.port.buffer 2).toNat →
    (crc8 s.port.buffer ≠ b →
      exec (.byteComplete b) s =
        .next (respond .badCheck [] { s with port := { s.port with word := s.port.word ||| BitVec.twoPow 16 13 } })) ∧
    (crc8 s.port.buffer = b →
      exec (.byteComplete b) s =
        .next (dispatch (at8 s.port.buffer 0) (at8 s.port.buffer 1) (s.port.buffer.drop 3) s))

/-- R178, R200: the check byte of a frame that agrees takes the request its code names; a code that names none is
answered UNKNOWN_REQUEST. -/
def Clause.FrameTakesItsRequest : Prop :=
  ∀ (code p : Byte) (args : List Byte) (s : State), s.awake = true → s.port.assembler = .receiving →
    args.length ≤ 32 → s.port.buffer = [code, p, byte args.length] ++ args →
    (∀ i, (code.toNat, i) ∈ requests p args → exec (.byteComplete (crc8 s.port.buffer)) s = exec i s) ∧
    ((∀ i, (code.toNat, i) ∉ requests p args) →
      exec (.byteComplete (crc8 s.port.buffer)) s = exec .unknownRequest s)

/-- R175, R176: the bytes of a frame up to its last argument are stored one after another, and SDO carries 0xFF. -/
def Clause.FrameBytesAreStored : Prop :=
  ∀ (code p : Byte) (args : List Byte) (s : State), s.awake = true → s.port.assembler = .receiving →
    s.port.buffer = [] → args.length ≤ 32 →
    clockBytes ([code, p, byte args.length] ++ args) s =
      some (List.replicate (3 + args.length) (some 0xFF#8),
        { s with port := { s.port with buffer := [code, p, byte args.length] ++ args, sdo := some 0xFF#8 } })

/-- R175, R176, R178: the bytes of a frame are stored, and its check byte takes its request. -/
def Obligations.FrameTakesItsRequest : Prop :=
  Clause.FrameBytesAreStored ∧ Clause.FrameTakesItsRequest

/-- R176: L above 32 makes the frame over-long when byte 2 completes: DISCARDING and PORT_ERROR in the same action, no
request and no answer, 0xFF on SDO whatever completes after it; L up to 32 leaves the assembler RECEIVING, and the byte at
position 3+L is the check byte. -/
def Obligations.ArgumentLength : Prop :=
  (∀ (code p n : Byte) (s : State), s.awake = true → s.port.assembler = .receiving → s.port.buffer = [code, p] →
    (32 < n.toNat → ∃ t, exec (.byteComplete n) s = .next t ∧ exec .frameOverlong s = .next t ∧
      t = { s with port := { s.port with
        assembler := .discarding, buffer := [], sdo := some 0xFF#8, selHigh := false,
        word := s.port.word ||| BitVec.twoPow 16 13 } } ∧
      ∀ x : Byte, exec (.byteComplete x) t = .next t) ∧
    (n.toNat ≤ 32 → exec (.byteComplete n) s =
      .next { s with port := { s.port with buffer := [code, p, n], sdo := some 0xFF#8 } })) ∧
  ∀ (code p n b : Byte) (args : List Byte) (s : State), s.awake = true → s.port.assembler = .receiving →
    n.toNat ≤ 32 → s.port.buffer = [code, p, n] ++ args →
    (args.length < n.toNat → exec (.byteComplete b) s =
      .next { s with port := { s.port with buffer := s.port.buffer ++ [b], sdo := some 0xFF#8 } }) ∧
    (args.length = n.toNat → exec (.byteComplete b) s = .next (takeFrame (s.port.buffer ++ [b]) s))

/-- R175: a byte that completes outside RECEIVING. -/
def Clause.BytesOutsideReceiving : Prop :=
  ∀ (x : Byte) (s : State), s.awake = true →
    (s.port.assembler = .deselected → exec (.byteComplete x) s = .next s) ∧
    (s.port.assembler = .discarding →
      exec (.byteComplete x) s = .next { s with port := { s.port with sdo := some 0xFF#8 } }) ∧
    (s.port.assembler = .trailing →
      exec (.byteComplete x) s = .next { s with port := { s.port with sdo := some 0x00#8 } }) ∧
    (∀ b c rest, s.port.assembler = .answering → s.port.answer = b :: c :: rest →
      exec (.byteComplete x) s = .next { s with port := { s.port with answer := c :: rest, sdo := some b } }) ∧
    (∀ b, s.port.assembler = .answering → s.port.answer = [b] →
      exec (.byteComplete x) s = .next { s with port := { s.port with
        assembler := .trailing, answer := [], sdo := some b } })

/-- R179: an answer is its code, its length low byte first, its data and their CRC-8; it goes out byte by byte in the bytes
after the check byte, and every byte after it reads 0x00. -/
def Obligations.AnswerGoesOut : Prop :=
  ∀ (r : Result) (data sdi more : List Byte) (s : State), s.awake = true → sdi.length = data.length + 4 →
    answerBytes r data = [r.code] ++ le16 data.length ++ data ++ [crc8 ([r.code] ++ le16 data.length ++ data)] ∧
    ∃ t, clockBytes sdi (respond r data s) = some ((answerBytes r data).map some, t) ∧
      t.port.assembler = .trailing ∧
      ∃ u, clockBytes more t = some (List.replicate more.length (some 0x00#8), u) ∧ u.port.assembler = .trailing

/-- R175, R177, R178, R181: the frame events by name: what each changes, and nothing else. SEL_FALLS with SEL low already
changes nothing (notes/assumptions/5.md, DESIGN CHOICE). -/
def Clause.FrameEvents : Prop :=
  ∀ s : State, s.awake = true →
    exec .badCheck s =
      .next (respond .badCheck [] { s with port := { s.port with word := s.port.word ||| BitVec.twoPow 16 13 } }) ∧
    exec .unknownRequest s = .next (respond .unknownRequest [] s) ∧
    exec .frameAbandoned s = .next { s with port := { s.port with
      assembler := .deselected, buffer := [], answer := [], sdo := none, selHigh := true } } ∧
    exec .frameEnd s = exec .frameAbandoned s ∧
    (s.port.selHigh = true → exec .selFalls s = .next { s with port := { s.port with
      assembler := .receiving, buffer := [], answer := [], selHigh := false } }) ∧
    (s.port.selHigh = false → exec .selFalls s = .next s)

/-- R175, R177, R178, R181: the frame events as commands of their own (DESIGN CHOICE, notes/assumptions/1.md), a SEL_FALLS with
SEL low already (DESIGN CHOICE, notes/assumptions/5.md), and the bytes that complete outside RECEIVING. -/
def Obligations.FrameEvents : Prop :=
  Clause.FrameEvents ∧ Clause.BytesOutsideReceiving

/-! ## The checks every request passes (R178) -/

/-- R178 step 2: while LOADING every request but READ_IDENT and READ_NOTICES is answered NOT_READY. -/
def Clause.NotReadyWhileLoading : Prop :=
  ∀ (p : Byte) (args : List Byte) (s : State), s.awake = true → s.sys.status = .loading → s.reconsider = false →
    ∀ x ∈ requests p args, x.1 ≠ 0x01 → x.1 ≠ 0x02 → exec x.2 s = .next (respond .notReady [] s)

/-- R178 step 3: while UNCONFIGURED the order requests are answered UNCONFIGURED. -/
def Clause.OrdersNeedASetup : Prop :=
  ∀ (p : Byte) (args : List Byte) (s : State), s.taking = true → s.sys.status = .unconfigured →
    ∀ x ∈ requests p args, 0x30 ≤ x.1 → x.1 ≤ 0x3F → exec x.2 s = .next (respond .unconfigured [] s)

/-- R178 steps 4 and 5, R200: a party above 7, or an L that does not match the form, is answered BAD_ARGUMENT. -/
def Clause.PartyAndLength : Prop :=
  ∀ (p : Byte) (args : List Byte) (s : State), s.ordering = true →
    (8 ≤ p.toNat → ∀ x ∈ requests p args, exec x.2 s = .next (respond .badArgument [] s)) ∧
    (∀ n : Nat, args.length ≠ n →
      (∀ x ∈ requests p args,
        (x.1, n) ∈ [(0x01, 0), (0x02, 0), (0x03, 2), (0x08, 3), (0x09, 1), (0x10, 31), (0x12, 5), (0x13, 7), (0x14, 4),
          (0x15, 4), (0x16, 0), (0x20, 5), (0x21, 1), (0x22, 3), (0x23, 1), (0x31, 5), (0x32, 2), (0x33, 2), (0x34, 5),
          (0x38, 5), (0x39, 1), (0x3A, 1), (0x3B, 1), (0x3F, 0), (0x42, 1), (0x43, 1), (0x44, 1)] →
        exec x.2 s = .next (respond .badArgument [] s))) ∧
    (args.length ≠ 8 + (at8 args 7).toNat ∨ 6 < (at8 args 7).toNat →
      exec (.setAssembly p args) s = .next (respond .badArgument [] s)) ∧
    (args.length ≠ 4 + 3 * (maskAsms (at8 args 0)).length →
      exec (.orderTravel p args) s = .next (respond .badArgument [] s)) ∧
    (args.length < 2 ∨ 17 < args.length → exec (.stageWrite p args) s = .next (respond .badArgument [] s)) ∧
    (2 ≤ (at8 args 1).toNat ∨ ((at8 args 1).toNat = 0 ∧ args.length ≠ 2) ∨
        ((at8 args 1).toNat = 1 ∧ args.length ≠ 16) →
      exec (.saveProfile p args) s = .next (respond .badArgument [] s))

/-- R178, R200: the checks that come before a request's own rule. -/
def Obligations.RequestChecks : Prop :=
  Clause.NotReadyWhileLoading ∧ Clause.OrdersNeedASetup ∧ Clause.PartyAndLength

/-! ## Reading requests -/

/-- R182: READ_IDENT, in every setup status. -/
def Obligations.ReadIdent : Prop :=
  ∀ (p : Byte) (s : State), s.awake = true → s.reconsider = false → p.toNat < 8 →
    exec (.readIdent p []) s =
      .next (respond .ok
        [0x64#8, 0x01#8,
         (match s.sys.status with
           | .loading => 0#8
           | .configured => 1#8
           | .unconfigured => 2#8),
         12#8, 8#8, 32#8, 20#8, 8#8, 2#8, 32#8, 64#8] s)

/-- R185: READ_NOTICES, in every setup status, from any party: the word as it stands, every flag cleared. -/
def Clause.ReadNotices : Prop :=
  ∀ (p : Byte) (s : State), s.awake = true → s.reconsider = false → p.toNat < 8 →
    exec (.readNotices p []) s =
      .next (respond .ok [BitVec.ofNat 8 s.port.word.toNat, BitVec.ofNat 8 (s.port.word.toNat / 256)]
        { s with port := { s.port with word := 0#16 } })

/-- R186, R187: SET_NOTICE_MASK replaces the mask as a whole; ATN follows. -/
def Clause.SetNoticeMask : Prop :=
  ∀ (p lo hi : Byte) (s : State), s.awake = true → s.reconsider = false → p.toNat < 8 →
    (s.sys.status = .loading → exec (.setNoticeMask p [lo, hi]) s = .next (respond .notReady [] s)) ∧
    (s.sys.status ≠ .loading → ∃ t,
      exec (.setNoticeMask p [lo, hi]) s = .next t ∧
      t = respond .ok [] { s with port := { s.port with mask := hi ++ lo } } ∧
      t.atnLow = decide (s.port.word &&& (hi ++ lo : BitVec 16) ≠ 0#16))

/-- R185, R186: READ_NOTICES and SET_NOTICE_MASK. -/
def Obligations.NoticeWord : Prop :=
  Clause.ReadNotices ∧ Clause.SetNoticeMask

/-- R183, R201: READ_RANGE: its refusals, and the records it returns, each of its table's size; it changes nothing. -/
def Clause.ReadRange : Prop :=
  ∀ (p code first cnt : Byte) (s : State), s.taking = true → p.toNat < 8 →
    (6 < code.toNat → exec (.readRange p [code, first, cnt]) s = .next (respond .badArgument [] s)) ∧
    ∀ size width : Nat,
      (code.toNat, size, width) ∈
        [(0, 12, 28), (1, 12, 31), (2, 8, 21), (3, 32, 12), (4, 8, 7), (5, 32, 16), (6, 1, 22)] →
      (size < first.toNat + (cnt.toNat + 1) →
        exec (.readRange p [code, first, cnt]) s = .next (respond .badArgument [] s)) ∧
      (first.toNat + (cnt.toNat + 1) ≤ size → ∃ data,
        exec (.readRange p [code, first, cnt]) s = .next (respond .ok data s) ∧
        data.length = (cnt.toNat + 1) * width ∧
        ∀ j, j < cnt.toNat + 1 → ∀ rs, s.table code = some rs →
          rs[first.toNat + j]? = some ((data.drop (j * width)).take width))

/-- R115, R201: READ_ORDER returns the order's record, 23 bytes and its lists, and changes nothing. -/
def Clause.ReadOrder : Prop :=
  ∀ (p h : Byte) (k : OrderSlot) (o : Order) (s : State), s.taking = true → p.toNat < 8 →
    k.val = h.toNat % 8 → s.orders[k].gen = h.toNat / 8 → s.order k = some o → ∃ data,
      exec (.readOrder p [h]) s = .next (respond .ok data s) ∧
      data.length = 23 + 4 * o.targets.length + 6 * o.entries.length ∧ at8 data 0 = o.state.code ∧ at8 data 1 = h ∧
      at8 data 2 = o.owner.code ∧ at8 data 3 = o.kind.code ∧ at8 data 4 = o.mask ∧ at8 data 16 = reasonCode o.reason ∧
      at8 data 20 = byte o.targets.length ∧ at8 data 21 = byte o.entries.length

/-- R88: a request that names an order by a stale handle is answered NO_SUCH, and nothing changes. -/
def Clause.StaleOrderHandles : Prop :=
  ∀ (p h a b lo hi : Byte) (k : OrderSlot) (s : State), s.ordering = true → p.toNat < 8 → k.val = h.toNat % 8 →
    s.order k = none ∨ s.orders[k].gen ≠ h.toNat / 8 →
    ∀ i ∈ [Instr.readOrder p [h], .amend p [h, a, b, lo, hi], .cancel p [h], .release p [h], .retire p [h]],
      exec i s = .next (respond .noSuch [] s)

/-- R88, R115, R183, R201: READ_RANGE, READ_ORDER, and the requests that name an order by a stale handle. -/
def Obligations.ReadRangeAndReadOrder : Prop :=
  Clause.ReadRange ∧ Clause.ReadOrder ∧ Clause.StaleOrderHandles

/-! ## The hold table -/

/-- R57, R54, R64: an accepted PLACE_HOLD writes the hold into the lowest free party slot, answers its handle, raises
HOLD_RAISED, and commands the moving channels it covers. -/
def Clause.PlaceHoldMakesAHold : Prop :=
  ∀ (p sc bl st lo hi : Byte) (b : Blocks) (y : Style) (h : HoldSlot) (s : State), s.taking = true → p.toNat < 8 →
    sc ≠ 0#8 → blocksOf bl = some b → styleOf st = some y → 20 ≤ h.val → s.hold h = none →
    (∀ j : HoldSlot, 20 ≤ j.val → j < h → s.hold j ≠ none) →
    let x : Hold :=
      { owner := .party p.toNat, cause := .party, subject := none, scope := sc, blocks := b, style := y,
        latched := false, state := .active, expiry := if un16 lo hi = 0 then none else some (un16 lo hi * 1000000),
        detail := none }
    ∃ t, exec (.placeHold p [sc, bl, st, lo, hi]) s = .next t ∧ Answers t .ok [s.holdHandle h] ∧
      t.holds = s.holds.set h { gen := s.holds[h].gen, hold := some x } ∧ t.flag .holdRaised = true ∧
      SameBody s t ∧ t.mon = s.mon ∧
      (∀ (c : Chan) (a : Asm), s.asmOf c = some a → sc.getLsbD a.val = true →
        b.includes (s.chan c).direction = true →
        (y = .cut → (s.chan c).state ≠ .idle → Msg.cut c ∈ t.inFlight) ∧
        (y = .ease → (s.chan c).state.pursuing = true → Msg.ease c ∈ t.inFlight))

/-- R57: the refusals of PLACE_HOLD. -/
def Clause.PlaceHoldRefusals : Prop :=
  ∀ (p sc bl st lo hi : Byte) (s : State), s.taking = true → p.toNat < 8 →
    (sc = 0#8 ∨ bl = 0#8 ∨ 4 ≤ bl.toNat ∨ 2 ≤ st.toNat →
      exec (.placeHold p [sc, bl, st, lo, hi]) s = .next (respond .badArgument [] s)) ∧
    (sc ≠ 0#8 → 1 ≤ bl.toNat → bl.toNat ≤ 3 → st.toNat < 2 → (∀ j : HoldSlot, 20 ≤ j.val → s.hold j ≠ none) →
      exec (.placeHold p [sc, bl, st, lo, hi]) s = .next (respond .tableFull [] s))

/-- R57, R54, R64: PLACE_HOLD, accepted and refused. -/
def Obligations.PlaceHold : Prop :=
  Clause.PlaceHoldMakesAHold ∧ Clause.PlaceHoldRefusals

/-- R52: coverage. -/
def Obligations.Coverage : Prop :=
  ∀ (s : State) (a : Asm),
    (s.covered a .dirOut = true ↔ ∃ h x, s.hold h = some x ∧ x.scope.getLsbD a.val = true ∧
      (x.blocks = .extend ∨ x.blocks = .both)) ∧
    (s.covered a .dirIn = true ↔ ∃ h x, s.hold h = some x ∧ x.scope.getLsbD a.val = true ∧
      (x.blocks = .retract ∨ x.blocks = .both))

/-- R58, R59: LIFT_HOLD frees the slot and steps its generation; RENEW_HOLD replaces the expiry alone. Both are for the
owner and for party 0. -/
def Clause.LiftAndRenew : Prop :=
  ∀ (p hd lo hi : Byte) (h : HoldSlot) (x : Hold) (n : Nat) (s : State), p.toNat < 8 → h.val = hd.toNat % 32 →
    s.holds[h].gen = hd.toNat / 32 → s.hold h = some x → x.owner = .party n → (p.toNat = 0 ∨ p.toNat = n) →
    (s.quiet = true → exec (.liftHold p [hd]) s =
      .next (respond .ok [] { s with holds := s.holds.set h { gen := (hd.toNat / 32 + 1) % 8, hold := none } })) ∧
    (s.taking = true →
      let y : Hold := { x with expiry := if un16 lo hi = 0 then none else some (un16 lo hi * 1000000) }
      exec (.renewHold p [hd, lo, hi]) s =
        .next (respond .ok [] { s with holds := s.holds.set h { gen := s.holds[h].gen, hold := some y } }))

/-- R49, R58, R59, R63: the refusals of the requests that name a hold, in the order they are checked. -/
def Clause.HoldRefusals : Prop :=
  ∀ (p hd lo hi : Byte) (h : HoldSlot) (s : State), s.taking = true → p.toNat < 8 → h.val = hd.toNat % 32 →
    (s.hold h = none ∨ s.holds[h].gen ≠ hd.toNat / 32 →
      ∀ i ∈ [Instr.liftHold p [hd], .renewHold p [hd, lo, hi], .clearHold p [hd]],
        exec i s = .next (respond .noSuch [] s)) ∧
    (∀ x, s.hold h = some x → s.holds[h].gen = hd.toNat / 32 →
      (x.owner = .monitor → ∀ i ∈ [Instr.liftHold p [hd], .renewHold p [hd, lo, hi]],
        exec i s = .next (respond .wrongKind [] s)) ∧
      (∀ n, x.owner = .party n → p.toNat ≠ 0 → p.toNat ≠ n →
        ∀ i ∈ [Instr.liftHold p [hd], .renewHold p [hd, lo, hi]], exec i s = .next (respond .notOwner [] s)) ∧
      (x.latched = false → exec (.clearHold p [hd]) s = .next (respond .wrongKind [] s)) ∧
      (x.latched = true → x.state = .active → exec (.clearHold p [hd]) s = .next (respond .stillPresent [] s)))

/-- R63, R85: CLEAR_HOLD removes a latched hold in PENDING_CLEAR; the evaluation that follows makes no hold while the
cause is gone. -/
def Clause.ClearHoldRemoves : Prop :=
  ∀ (p hd : Byte) (h : HoldSlot) (x : Hold) (s : State), s.quiet = true → Inv s → p.toNat < 8 → h.val = hd.toNat % 32 →
    s.holds[h].gen = hd.toNat / 32 → s.hold h = some x → x.owner = .monitor → x.latched = true →
    x.state = .pendingClear → (x.cause = .estop → s.mon.estp.active = false) →
    (∀ a : Asm, x.cause = .fault → x.subject = some a.val → s.faultStands a = false) →
    exec (.clearHold p [hd]) s =
      .next (respond .ok [] { s with holds := s.holds.set h { gen := (hd.toNat / 32 + 1) % 8, hold := none } })

/-- R59: a party hold whose expiry runs out is removed, and HOLD_EXPIRED is raised; HOLD_EXPIRY at a hold without one
changes nothing (notes/assumptions/3.md, DESIGN CHOICE). -/
def Clause.HoldExpires : Prop :=
  ∀ (h : HoldSlot) (x : Hold) (s : State), s.quiet = true → s.hold h = some x →
    (x.expiry.isSome = true → exec (.holdExpiry h) s =
      .next { s with
        holds := s.holds.set h { gen := (s.holds[h].gen + 1) % 8, hold := none },
        port := { s.port with word := s.port.word ||| BitVec.twoPow 16 3 } }) ∧
    (x.expiry = none → exec (.holdExpiry h) s = .next s)

/-- R49, R58, R59, R63: LIFT_HOLD, RENEW_HOLD and CLEAR_HOLD, their refusals, and the expiry of a hold, which as a command acts
whatever time is left and changes nothing where none runs (DESIGN CHOICE, notes/assumptions/3.md). -/
def Obligations.HoldRequests : Prop :=
  Clause.LiftAndRenew ∧ Clause.HoldRefusals ∧ Clause.ClearHoldRemoves ∧ Clause.HoldExpires

/-! ## Setup -/

/-- R2, R191: SET_CHANNEL writes the same values to every selected channel and keeps each channel's assembly. -/
def Clause.SetChannelWrites : Prop :=
  ∀ (p m0 m1 : Byte) (bytes : List Byte) (s : State), s.taking = true → p.toNat < 8 → bytes.length = 29 →
    let m := un16 m0 m1
    (decodeChannelSetup bytes = none ∨ m = 0 ∨ 4096 ≤ m →
      exec (.setChannel p (m0 :: m1 :: bytes)) s = .next (respond .badArgument [] s)) ∧
    (∀ x, decodeChannelSetup bytes = some x → m ≠ 0 → m < 4096 →
      ((∃ c : Chan, m.testBit c.val = true ∧ s.claims[c] ≠ none) →
        exec (.setChannel p (m0 :: m1 :: bytes)) s = .next (respond .busy [] s)) ∧
      ((∀ c : Chan, m.testBit c.val = true → s.claims[c] = none) → ∃ t,
        exec (.setChannel p (m0 :: m1 :: bytes)) s = .next t ∧ Answers t .ok [] ∧
        (∀ c : Chan, t.cfg c = if m.testBit c.val then { x with assembly := s.asmOf c } else s.cfg c) ∧
        t.setup = { s.setup with channels := t.setup.channels } ∧ t.nv = s.nv ∧ t.sys = s.sys))

/-- R3: the live effects of a SET_CHANNEL on one IDLE channel that no order claims or runs with. A new span or dir_invert makes the
position unknown, unless one end alone is active; a new polarity recomputes its input from the raw level, and a difference
is taken as that input's change; a new filter time completes a wait that is longer already; a new end_tolerance waits for
the next start. No other channel's record changes, and POSITION_LOST is not raised. -/
def Clause.SetChannelActs : Prop :=
  ∀ (p m0 m1 : Byte) (bytes : List Byte) (x : ChannelSetup) (c : Chan) (s : State), s.quiet = true → p.toNat < 8 →
    bytes.length = 29 → decodeChannelSetup bytes = some x → un16 m0 m1 = 2 ^ c.val → s.claims[c] = none →
    (s.chan c).state = .idle → (∀ k o, s.order k = some o → o.state = .running → ∀ e ∈ o.entries, e.chan ≠ c) → ∃ t,
    exec (.setChannel p (m0 :: m1 :: bytes)) s = .next t ∧ Answers t .ok [] ∧ t.claims = s.claims ∧
    t.flag .positionLost = s.flag .positionLost ∧
    let old := s.cfg c
    let held :=
      if x.endTolerance = old.endTolerance then (s.chan c).heldTolerance
      else some ((s.chan c).heldTolerance.getD old.endTolerance)
    let ch := { s.chan c with heldTolerance := held }
    let pin := s.pins.chan[c]
    let becomes := fun (y : Channel) => t.channels = s.channels.set c y
    let lost := { ch with positionKnown := false, drift := 0, contactPos := none }
    let takesIn := fun (i : Bool) =>
      (i = ch.inActive → becomes { ch with eniWait := none }) ∧
      (i = true → ch.inActive = false → ch.outActive = false → becomes { ch with
        inActive := true, eniWait := none, position := 0, positionKnown := true, drift := 0 }) ∧
      (i = true → ch.inActive = false → ch.outActive = true → t.flag .fault = true ∧ becomes { lost with
        inActive := true, eniWait := none, lastFault := some .sensorConflict }) ∧
      (i = false → ch.inActive = true → becomes { ch with inActive := false, eniWait := none })
    let takesOut := fun (o : Bool) =>
      (o = ch.outActive → becomes { ch with enoWait := none }) ∧
      (o = true → ch.outActive = false → ch.inActive = false → becomes { ch with
        outActive := true, enoWait := none, position := old.span, positionKnown := true, drift := 0 } ∧
        t.flag .spanDrift = (s.flag .spanDrift || (ch.positionKnown &&
          decide ((s.chan c).heldTolerance.getD old.endTolerance <
            if ch.position < old.span then old.span - ch.position else ch.overrun)))) ∧
      (o = true → ch.outActive = false → ch.inActive = true → t.flag .fault = true ∧ becomes { lost with
        outActive := true, enoWait := none, lastFault := some .sensorConflict }) ∧
      (o = false → ch.outActive = true → becomes { ch with outActive := false, enoWait := none })
    let takesAux := fun (a : Bool) => becomes { ch with
      auxActive := a, auxWait := none,
      contactPos := if a && !ch.auxActive && s.isJack c && ch.positionKnown then some ch.position else ch.contactPos }
    let takesTrp := fun (r : Bool) =>
      (r = ch.trpActive → becomes ch) ∧
      (r = true → ch.trpActive = false → t.flag .fault = true ∧
        becomes { ch with trpActive := true, lastFault := some .trip }) ∧
      (r = false → ch.trpActive = true → becomes { ch with trpActive := false })
    let sameDrive := x.span = old.span ∧ x.dirInvert = old.dirInvert
    let sameIn := x.eniLevel = old.eniLevel
    let sameOut := x.enoLevel = old.enoLevel
    let sameAux := x.auxLevel = old.auxLevel
    let sameTrp := x.trpLevel = old.trpLevel
    let sameFilter := x.filter = old.filter
    let waited := fun (w : Option Nat) => ∃ n, w = some n ∧ x.filter * 1000 ≤ n
    (sameIn → sameOut → sameAux → sameTrp → sameFilter →
      (sameDrive → becomes ch) ∧
      (¬sameDrive → becomes
        (if ch.inActive && !ch.outActive then { lost with position := 0, positionKnown := true }
         else if ch.outActive && !ch.inActive then { lost with position := x.span, positionKnown := true }
         else lost))) ∧
    (sameDrive → ¬sameIn → sameOut → sameAux → sameTrp → sameFilter → takesIn (activeOf x.eniLevel pin.eni)) ∧
    (sameDrive → sameIn → ¬sameOut → sameAux → sameTrp → sameFilter → takesOut (activeOf x.enoLevel pin.eno)) ∧
    (sameDrive → sameIn → sameOut → ¬sameAux → sameTrp → sameFilter → takesAux (activeOf x.auxLevel pin.aux)) ∧
    (sameDrive → sameIn → sameOut → sameAux → ¬sameTrp → sameFilter → takesTrp (activeOf x.trpLevel pin.trp)) ∧
    (sameDrive → sameIn → sameOut → sameAux → sameTrp → ¬sameFilter →
      (¬waited ch.eniWait → ¬waited ch.enoWait → ¬waited ch.auxWait → becomes ch) ∧
      (waited ch.eniWait → ¬waited ch.enoWait → ¬waited ch.auxWait → takesIn (activeOf x.eniLevel pin.eni)) ∧
      (¬waited ch.eniWait → waited ch.enoWait → ¬waited ch.auxWait → takesOut (activeOf x.enoLevel pin.eno)) ∧
      (¬waited ch.eniWait → ¬waited ch.enoWait → waited ch.auxWait → takesAux (activeOf x.auxLevel pin.aux)))

/-- R2, R3, R191: SET_CHANNEL, refused and accepted, and what it does to a channel at once. -/
def Obligations.SetChannel : Prop :=
  Clause.SetChannelWrites ∧ Clause.SetChannelActs

/-- R30, R31, R192: SET_ASSEMBLY writes the record, takes its channels out of every other record, and both copies of
membership agree afterwards; a channel whose assembly changed loses its contact_pos, and its position stands. -/
def Clause.SetAssemblyWrites : Prop :=
  ∀ (p : Byte) (args : List Byte) (a : Asm) (x : AsmSetup) (s : State), s.quiet = true → p.toNat < 8 →
    formSetAssembly args = true → asmArgs args = some (a, x) → writeFits s.setup.asms a x = true →
    s.writeBusy a x = false → ∃ t,
      exec (.setAssembly p args) s = .next t ∧ Answers t .ok [] ∧ t.asmCfg a = x ∧
      (∀ b : Asm, b ≠ a → t.asmCfg b =
        { s.asmCfg b with channels := (s.asmCfg b).channels.filter fun c => decide (c ∉ x.channels) }) ∧
      (∀ c : Chan, t.cfg c = { s.cfg c with assembly := memberOf t.setup.asms c }) ∧
      (Disjoint s.setup.asms → ∀ (c : Chan) (b : Asm), t.asmOf c = some b ↔ c ∈ (t.asmCfg b).channels) ∧
      (∀ c : Chan, t.chan c =
        if t.asmOf c = s.asmOf c then s.chan c else { s.chan c with contactPos := none }) ∧
      t.setup = { s.setup with channels := t.setup.channels, asms := t.setup.asms } ∧ t.claims = s.claims ∧
      t.orders = s.orders ∧ t.store = s.store ∧ t.nv = s.nv ∧ t.sys = s.sys

/-- R192: the refusals of SET_ASSEMBLY: step 1 and step 2 answer BAD_ARGUMENT, step 3 BUSY, for the record
written and for one that gives up a channel. -/
def Clause.SetAssemblyRefusals : Prop :=
  ∀ (p : Byte) (args : List Byte) (s : State), s.taking = true → p.toNat < 8 → formSetAssembly args = true →
    (asmArgs args = none → exec (.setAssembly p args) s = .next (respond .badArgument [] s)) ∧
    (∀ a x, asmArgs args = some (a, x) →
      (writeFits s.setup.asms a x = false → exec (.setAssembly p args) s = .next (respond .badArgument [] s)) ∧
      (writeFits s.setup.asms a x = true →
        ((∃ c ∈ x.channels ++ (s.asmCfg a).channels, s.claims[c] ≠ none) ∨
          (∃ k o, s.order k = some o ∧ o.state.live = true ∧ o.mask.getLsbD a.val = true) ∨
          (∃ b : Asm, b ≠ a ∧ (∃ c ∈ x.channels, c ∈ (s.asmCfg b).channels) ∧
            ((∃ d ∈ (s.asmCfg b).channels, s.claims[d] ≠ none) ∨
              ∃ k o, s.order k = some o ∧ o.state.live = true ∧ o.mask.getLsbD b.val = true))) →
        exec (.setAssembly p args) s = .next (respond .busy [] s)))

/-- R30, R31, R192: SET_ASSEMBLY, accepted and refused. -/
def Obligations.SetAssembly : Prop :=
  Clause.SetAssemblyWrites ∧ Clause.SetAssemblyRefusals

/-- R193, R137: SET_LEVELLER writes its four fields together, or is answered BAD_ARGUMENT; the stance state stands. -/
def Clause.SetLevellerWrites : Prop :=
  ∀ (p tl mp s0 s1 db : Byte) (s : State), s.quiet = true → p.toNat < 8 →
    let fits := (5 ≤ tl.toNat ∧ tl.toNat ≤ 100) ∧ (1 ≤ mp.toNat ∧ mp.toNat ≤ 5) ∧
      (500 ≤ un16 s0 s1 ∧ un16 s0 s1 ≤ 10000) ∧ db.toNat ≤ 200
    let s' := { s with setup := { s.setup with leveller :=
      { tolerance := tl.toNat, maxPasses := mp.toNat, settle := un16 s0 s1, deadband := db.toNat } } }
    (¬fits → exec (.setLeveller p [tl, mp, s0, s1, db]) s = .next (respond .badArgument [] s)) ∧
    (fits → ∃ t, exec (.setLeveller p [tl, mp, s0, s1, db]) s = .next t ∧ Answers t .ok [] ∧ SameBody s' t)

/-- R194, R78: SET_WIND writes its six fields together, or is answered BAD_ARGUMENT; a new window begins at once, and the
calm timer keeps the time it has run. -/
def Clause.SetWindWrites : Prop :=
  ∀ (p ca re tw c0 c1 wi fa : Byte) (s : State), s.quiet = true → p.toNat < 8 →
    let fits := (5 ≤ ca.toNat ∧ ca.toNat ≤ 120) ∧ (ca.toNat < re.toNat ∧ re.toNat ≤ 150) ∧
      (1 ≤ tw.toNat ∧ tw.toNat ≤ 10) ∧ (60 ≤ un16 c0 c1 ∧ un16 c0 c1 ≤ 1800) ∧ wi.toNat < 3 ∧ 1 ≤ fa.toNat
    (¬fits → exec (.setWind p [ca, re, tw, c0, c1, wi, fa]) s = .next (respond .badArgument [] s)) ∧
    (∀ w, fits → windWindowOf wi = some w →
      let x : WindSetup :=
        { caution := ca.toNat, retract := re.toNat, tripWindows := tw.toNat, calmTime := un16 c0 c1, window := w,
          factor := fa.toNat }
      let anew := w ≠ s.setup.wind.window
      let past := x.calmTime ≠ s.setup.wind.calmTime ∧ ∃ e, s.mon.calm = some e ∧ x.calmTime * 1000000 ≤ e
      ∃ t, exec (.setWind p [ca, re, tw, c0, c1, wi, fa]) s = .next t ∧ Answers t .ok [] ∧
        SameBody { s with setup := { s.setup with wind := x } } t ∧ t.mon.lastSpeed = s.mon.lastSpeed ∧
        (anew → t.mon.counter = 0 ∧ t.mon.run = 0 ∧ t.mon.window = some w.length) ∧
        (¬anew → t.mon.counter = s.mon.counter ∧ t.mon.run = s.mon.run ∧ t.mon.window = s.mon.window) ∧
        (past → t.mon.tripped = false ∧ t.mon.calm = none) ∧
        (¬past → t.mon.tripped = s.mon.tripped ∧ t.mon.calm = s.mon.calm))

/-- R195, R68: SET_LINES writes the four polarities; a line whose polarity changed is recomputed from its raw level. -/
def Clause.SetLinesWrites : Prop :=
  ∀ (p : Byte) (bs : List Byte) (s : State), s.quiet = true → p.toNat < 8 → bs.length = 4 →
    (decodeLines bs = none → exec (.setLines p bs) s = .next (respond .badArgument [] s)) ∧
    (∀ x, decodeLines bs = some x → ∃ t,
      exec (.setLines p bs) s = .next t ∧ Answers t .ok [] ∧
      SameBody { s with setup := { s.setup with lines := x } } t ∧
      t.mon.ign.active =
        (if x.ign = s.setup.lines.ign then s.mon.ign.active else activeOf x.ign s.pins.ign) ∧
      t.mon.pbrk.active =
        (if x.pbrk = s.setup.lines.pbrk then s.mon.pbrk.active else activeOf x.pbrk s.pins.pbrk) ∧
      t.mon.lowv.active =
        (if x.lowv = s.setup.lines.lowv then s.mon.lowv.active else activeOf x.lowv s.pins.lowv) ∧
      t.mon.estp.active =
        (if x.estp = s.setup.lines.estp then s.mon.estp.active else activeOf x.estp s.pins.estp) ∧
      t.mon.counter = s.mon.counter ∧ t.mon.tripped = s.mon.tripped)

/-- R195, R168: SET_SWEEP writes its pair, and a defined pair that would not be live is answered WRONG_KIND; SET_PROTECT
writes P, and only party 0 lowers it. -/
def Clause.SetSweepAndProtect : Prop :=
  ∀ (p b0 b1 b2 b3 : Byte) (s : State), s.quiet = true → p.toNat < 8 →
    (4 ≤ b0.toNat ∨ 2 ≤ b1.toNat ∨ 8 ≤ b2.toNat ∨ 8 ≤ b3.toNat →
      exec (.setSweep p [b0, b1, b2, b3]) s = .next (respond .badArgument [] s)) ∧
    (∀ (q : Fin 4) (aw sl : Asm), b0 = byte q.val → b1.toNat < 2 → b2 = byte aw.val → b3 = byte sl.val →
      let x : SweepPair := { defined := decide (b1 = 1#8), awning := aw, slide := sl }
      (b1 = 1#8 → ((s.asmCfg aw).kind ≠ .awning ∨ (s.asmCfg sl).kind ≠ .slide) →
        exec (.setSweep p [b0, b1, b2, b3]) s = .next (respond .wrongKind [] s)) ∧
      (b1 = 0#8 ∨ ((s.asmCfg aw).kind = .awning ∧ (s.asmCfg sl).kind = .slide) → ∃ t,
        exec (.setSweep p [b0, b1, b2, b3]) s = .next t ∧ Answers t .ok [] ∧
        SameBody { s with setup := { s.setup with sweep := s.setup.sweep.set q x } } t)) ∧
    (32 < b0.toNat → exec (.setProtect p [b0]) s = .next (respond .badArgument [] s)) ∧
    (b0.toNat < s.setup.protect → b0.toNat ≤ 32 → p ≠ 0#8 →
      exec (.setProtect p [b0]) s = .next (respond .notOwner [] s)) ∧
    (b0.toNat ≤ 32 → (s.setup.protect ≤ b0.toNat ∨ p = 0#8) → ∃ t,
      exec (.setProtect p [b0]) s = .next t ∧ Answers t .ok [] ∧
      SameBody { s with setup := { s.setup with protect := b0.toNat } } t)

/-- R68, R78, R168, R193, R194, R195: SET_LEVELLER, SET_WIND, SET_LINES, SET_SWEEP and SET_PROTECT. -/
def Obligations.OtherSetupRequests : Prop :=
  Clause.SetLevellerWrites ∧ Clause.SetWindWrites ∧ Clause.SetLinesWrites ∧ Clause.SetSweepAndProtect

/-- R66, R67, R191: an accepted setup request, here SET_PROTECT, evaluates every cause: after it, each hold that is not
latched stands exactly while its cause does, with the scope of its cause, and a latched cause that stands has its hold
ACTIVE. -/
def Obligations.SetProtectEvaluatesEveryCause : Prop :=
  ∀ (p b : Byte) (s : State), s.quiet = true → Inv s → p.toNat < 8 → b.toNat ≤ 32 → s.setup.protect ≤ b.toNat → ∃ t,
    exec (.setProtect p [b]) s = .next t ∧ Answers t .ok [] ∧
    let stands := fun (cause : Cause) (subject : Option Nat) (want : Option (BitVec 8)) =>
      (∀ h x, t.hold h = some x → x.cause = cause → x.subject = subject → x.owner = .monitor → some x.scope = want) ∧
      (∀ m, want = some m → ∃ h x, t.hold h = some x ∧ x.cause = cause ∧ x.subject = subject ∧ x.owner = .monitor)
    stands .road none (if s.mon.ign.active || !s.mon.pbrk.active then some 0xFF#8 else none) ∧
    stands .lowv none (if s.lowvStands then some 0xFF#8 else none) ∧
    stands .wind none (if s.mon.tripped && decide (s.windScope ≠ 0#8) then some s.windScope else none) ∧
    stands .unset none
      (if s.stanceAsm.isSome && decide (s.lev.stance ≠ .set) then some (scopeOf s.needsStance) else none) ∧
    stands .slidesOut none
      (match s.stanceAsm with
        | some a =>
          if allAsms.any (fun b => s.needsStance b && !(s.asm b).settledIn) then some (BitVec.twoPow 8 a.val) else none
        | none => none) ∧
    (∀ q : Fin 4, stands .sweep (some q.val) (s.sweepScope s.setup.sweep[q])) ∧
    (s.mon.estp.active = true → ∃ h x, t.hold h = some x ∧ x.cause = .estop ∧ x.state = .active) ∧
    (∀ a : Asm, s.faultStands a = true →
      ∃ h x, t.hold h = some x ∧ x.cause = .fault ∧ x.subject = some a.val ∧ x.state = .active)

/-! ## The profile store -/

/-- R158: STAGE_WRITE writes its bytes from its offset on, wrapping after offset 63, in every store state; an offset above
63 is answered BAD_ARGUMENT. -/
def Obligations.StageWriteWraps : Prop :=
  ∀ (p at' : Byte) (data : List Byte) (s : State), s.taking = true → p.toNat < 8 → 1 ≤ data.length →
    data.length ≤ 16 → s.store.staging.length = 64 →
    (63 < at'.toNat → exec (.stageWrite p (at' :: data)) s = .next (respond .badArgument [] s)) ∧
    (at'.toNat ≤ 63 → ∃ buf,
      exec (.stageWrite p (at' :: data)) s = .next (respond .ok [] { s with store := { s.store with staging := buf } }) ∧
      buf.length = 64 ∧
      (∀ j, j < data.length → buf[(at'.toNat + j) % 64]? = data[j]?) ∧
      (∀ i, i < 64 → (∀ j, j < data.length → (at'.toNat + j) % 64 ≠ i) → buf[i]? = s.store.staging[i]?))

/-- R160, R161, R163, R167: an accepted SAVE_PROFILE or ERASE_PROFILE opens the slot's mark, makes its entry BUSY and
starts its erase step; the image of a save carries its CRC-16 in bytes 62 and 63. -/
def Clause.SaveAndEraseBegin : Prop :=
  ∀ (p : Byte) (q : ProfileSlot) (s : State), s.taking = true → p.toNat < 8 → s.setup.protect ≤ q.val →
    s.store.state = .idle → s.pinned q = 0 →
    let begun := fun (t : State) (kind : OpKind) (image : List Byte) =>
      t.store = { s.store with
        state := .erasing, halt := none, directory := s.store.directory.set q (DirEntry.plain .busy),
        op := some { kind := kind, place := .slot q, step := .erase 0, remaining := 25000, image := image, guard := 0,
                     haltedFrom := .erasing } } ∧
      t.nv = { s.nv with marks := s.nv.marks.set (slotUnit q) true } ∧ t.setup = s.setup ∧ t.channels = s.channels ∧
      t.orders = s.orders ∧ t.holds = s.holds ∧ t.sys = s.sys ∧ Answers t .ok []
    (∃ t, exec (.eraseProfile p [byte q.val]) s = .next t ∧ begun t .erase []) ∧
    (∀ (args : List Byte) (src : SaveSource) (bs : List Byte), formSaveProfile args = true →
      saveArgs args = some (q, src) → s.saveImage src = .ok bs → ∃ t image,
        exec (.saveProfile p args) s = .next t ∧ begun t .save image ∧
        (bs.length = 62 ∨ bs.length = 64 →
          image.length = 64 ∧ image.take 62 = bs.take 62 ∧ at16 image 62 = (crc16 (image.take 62)).toNat))

/-- R163, R167, R168: PROTECTED, then STORE_BUSY, then PROFILE_BUSY. -/
def Clause.SaveAndEraseRefusals : Prop :=
  ∀ (p : Byte) (args : List Byte) (q : ProfileSlot) (src : SaveSource) (s : State), s.taking = true → p.toNat < 8 →
    formSaveProfile args = true → saveArgs args = some (q, src) →
    ∀ i ∈ [Instr.saveProfile p args, .eraseProfile p [byte q.val]],
      (q.val < s.setup.protect → exec i s = .next (respond .isProtected [] s)) ∧
      (s.setup.protect ≤ q.val → s.store.state ≠ .idle → exec i s = .next (respond .storeBusy [] s)) ∧
      (s.setup.protect ≤ q.val → s.store.state = .idle → s.pinned q ≠ 0 →
        exec i s = .next (respond .profileBusy [] s))

/-- R169: READ_PROFILE. -/
def Obligations.ReadProfile : Prop :=
  ∀ (p : Byte) (q : ProfileSlot) (s : State), s.taking = true → p.toNat < 8 →
    let bs := s.nv.mem.readList (q.val * 64) 64
    let ok := (crc16 (bs.take 62)).toNat = at16 bs 62
    (∀ b : Byte, 32 ≤ b.toNat → exec (.readProfile p [b]) s = .next (respond .badArgument [] s)) ∧
    (s.store.state ≠ .idle → exec (.readProfile p [byte q.val]) s = .next (respond .storeBusy [] s)) ∧
    (s.store.state = .idle → (s.store.directory[q]).state = .empty →
      exec (.readProfile p [byte q.val]) s = .next (respond .empty [] s)) ∧
    (s.store.state = .idle → (s.store.directory[q]).state ≠ .empty → ok →
      exec (.readProfile p [byte q.val]) s = .next (respond .ok bs s)) ∧
    (s.store.state = .idle → (s.store.directory[q]).state = .valid → ¬ok →
      exec (.readProfile p [byte q.val]) s = .next (respond .profileInvalid bs { s with store := { s.store with
        directory := s.store.directory.set q (DirEntry.plain .invalid) } })) ∧
    (s.store.state = .idle → (s.store.directory[q]).state = .invalid → ¬ok →
      exec (.readProfile p [byte q.val]) s = .next (respond .profileInvalid bs s))

/-- R196, R162: COMMIT_SETUP begins the commit of the setup image, with the eight marks of the setup area OPEN. -/
def Clause.CommitBegins : Prop :=
  ∀ (p : Byte) (s : State), s.taking = true → p.toNat < 8 →
    (s.store.state ≠ .idle → exec (.commitSetup p []) s = .next (respond .storeBusy [] s)) ∧
    (s.store.state = .idle → ∃ t,
      exec (.commitSetup p []) s = .next t ∧ Answers t .ok [] ∧
      t.store = { s.store with
        state := .erasing, halt := none,
        op := some { kind := .commit, place := .setupArea, step := .erase 0, remaining := 25000,
                     image := setupImage s.setup, guard := 0, haltedFrom := .erasing } } ∧
      t.nv.mem = s.nv.mem ∧ (∀ u : Fin 40, t.nv.marks[u] = (s.nv.marks[u] || decide (32 ≤ u.val))) ∧
      t.setup = s.setup ∧ t.channels = s.channels ∧ t.orders = s.orders ∧ t.holds = s.holds ∧ t.sys = s.sys)

/-- R163 step 1, R167 step 1: a slot above 31 is answered BAD_ARGUMENT. -/
def Clause.SlotsAboveThirtyOne : Prop :=
  ∀ (p q : Byte) (rest : List Byte) (s : State), s.taking = true → p.toNat < 8 → 32 ≤ q.toNat →
    exec (.eraseProfile p [q]) s = .next (respond .badArgument [] s) ∧
    (formSaveProfile (q :: rest) = true → exec (.saveProfile p (q :: rest)) s = .next (respond .badArgument [] s))

/-- R160 to R163, R167, R168, R196: SAVE_PROFILE, ERASE_PROFILE and COMMIT_SETUP begin, or are refused. What an operation is
halted from reads ERASING as it begins (DESIGN CHOICE, notes/assumptions/53.md). -/
def Obligations.StoreOperationsBegin : Prop :=
  Clause.SaveAndEraseBegin ∧ Clause.SaveAndEraseRefusals ∧ Clause.SlotsAboveThirtyOne ∧ Clause.CommitBegins

/-- R160: what the fields of a staged image must hold: kind, entry count, flags, tag, residuals and the entries within the
count. -/
def Clause.StagedFits (bs : List Byte) (kind : ProfileKind) (n : Nat) : Prop :=
  let tag := (bs.drop 3).take 12
  let residual := fun (i : Nat) =>
    if kind = .stance then -1500 ≤ sx16 (at8 bs i) (at8 bs (i + 1)) ∧ sx16 (at8 bs i) (at8 bs (i + 1)) ≤ 1500
    else sx16 (at8 bs i) (at8 bs (i + 1)) = 0
  at8 bs 0 = (if kind = .stance then 1#8 else 2#8) ∧ (at8 bs 1).toNat = n ∧ 1 ≤ n ∧ n ≤ 8 ∧
  (at8 bs 2 = 0#8 ∨ (at8 bs 2 = 1#8 ∧ kind = .stance)) ∧
  (∃ m, 1 ≤ m ∧ m ≤ 12 ∧ (∀ j, j < m → 0x20 ≤ (at8 tag j).toNat ∧ (at8 tag j).toNat ≤ 0x7E) ∧
    ∀ j, m ≤ j → j < 12 → at8 tag j = 0#8) ∧
  residual 15 ∧ residual 17 ∧
  ∀ j, j < n → at16 bs (21 + 4 * j) ≤ 32767 ∧
    if kind = .stance then (at8 bs (19 + 4 * j)).toNat < 12
    else (at8 bs (19 + 4 * j)).toNat < 8 ∧ (at8 bs (20 + 4 * j)).toNat < 3 ∧
      (at8 bs (20 + 4 * j) ≠ 2#8 → at16 bs (21 + 4 * j) = 0)

/-- R164: a save of the staging buffer: what it refuses, and the image it stores. -/
def Clause.StagedImage : Prop :=
  ∀ (p : Byte) (q : ProfileSlot) (s : State), s.taking = true → p.toNat < 8 → s.setup.protect ≤ q.val →
    s.store.state = .idle → s.pinned q = 0 → s.store.staging.length = 64 →
    let bs := s.store.staging
    let save := exec (.saveProfile p [byte q.val, 0#8]) s
    let stores := ∃ t op, save = .next t ∧ Answers t .ok [] ∧ t.store.op = some op ∧ op.image.length = 64 ∧
      op.image.take 62 = bs.take 62 ∧ at16 op.image 62 = (crc16 (bs.take 62)).toNat
    ((∀ kind n, ¬Clause.StagedFits bs kind n) → save = .next (respond .badArgument [] s)) ∧
    (∀ n, Clause.StagedFits bs .preset n →
      ((∃ i j, i < j ∧ j < n ∧ at8 bs (19 + 4 * i) = at8 bs (19 + 4 * j)) →
        save = .next (respond .badArgument [] s)) ∧
      ((∀ i j, i < j → j < n → at8 bs (19 + 4 * i) ≠ at8 bs (19 + 4 * j)) → stores)) ∧
    (∀ n, Clause.StagedFits bs .stance n →
      let matched := ∃ a : Asm, s.stanceAsm = some a ∧ n = (s.asmCfg a).channels.length ∧
        ∀ c ∈ (s.asmCfg a).channels, ∃ j, j < n ∧ at8 bs (19 + 4 * j) = byte c.val
      (¬matched → save = .next (respond .profileMismatch [] s)) ∧ (matched → stores))

/-- R165, R166: a capture: what it refuses, and the image it builds from the stance or the assemblies as they stand. -/
def Clause.CapturedImage : Prop :=
  ∀ (p k f : Byte) (tag : List Byte) (q : ProfileSlot) (s : State), s.taking = true → p.toNat < 8 →
    s.setup.protect ≤ q.val → s.store.state = .idle → s.pinned q = 0 → tag.length = 12 →
    let save := exec (.saveProfile p ([byte q.val, 1#8, k, f] ++ tag)) s
    let refused := fun (r : Result) => save = .next (respond r [] s)
    let tagFits := ∃ m, 1 ≤ m ∧ m ≤ 12 ∧ (∀ j, j < m → 0x20 ≤ (at8 tag j).toNat ∧ (at8 tag j).toNat ≤ 0x7E) ∧
      ∀ j, m ≤ j → j < 12 → at8 tag j = 0#8
    let builds := fun (kind n flags : Byte) (pitch roll : Int) (entries : List (List Byte)) =>
      ∃ t op, save = .next t ∧ Answers t .ok [] ∧ t.store.op = some op ∧ op.image.length = 64 ∧
        op.image.take 62 = ([kind, n, flags] ++ tag ++ le16 (BitVec.ofInt 16 pitch).toNat ++
          le16 (BitVec.ofInt 16 roll).toNat ++ entries.flatten ++ List.replicate 64 0#8).take 62 ∧
        at16 op.image 62 = (crc16 (op.image.take 62)).toNat
    (k ≠ 1#8 → k ≠ 2#8 → refused .badArgument) ∧ (¬tagFits → refused .badArgument) ∧
    (k = 1#8 → 2 ≤ f.toNat → refused .badArgument) ∧
    (tagFits → k = 1#8 → f.toNat < 2 →
      (s.lev.stance ≠ .set ∨ (∀ a : Asm, (s.asmCfg a).kind ≠ .stance) → refused .notSet) ∧
      ∀ a : Asm, s.stanceAsm = some a → s.lev.stance = .set →
        let cs := (s.asmCfg a).channels
        ((∃ c ∈ cs, (s.chan c).positionKnown = false ∨ (s.chan c).contactPos = none) → refused .unhomed) ∧
        ((∀ c ∈ cs, (s.chan c).positionKnown = true ∧ (s.chan c).contactPos ≠ none) →
          -32768 ≤ s.lev.residualPitch → s.lev.residualPitch ≤ 32767 → -32768 ≤ s.lev.residualRoll →
          s.lev.residualRoll ≤ 32767 →
          builds 1#8 (byte cs.length) f s.lev.residualPitch s.lev.residualRoll (cs.map fun c =>
            [byte c.val, 0#8] ++ le16 ((s.chan c).position - (s.chan c).contactPos.getD 0)))) ∧
    (tagFits → k = 2#8 →
      let named := fun (a : Asm) => f.getLsbD a.val = true
      let travels := fun (a : Asm) => (s.asmCfg a).kind = .slide ∨ (s.asmCfg a).kind = .awning
      (f = 0#8 → refused .badArgument) ∧
      (f ≠ 0#8 → (∃ a, named a ∧ ¬travels a) → refused .wrongKind) ∧
      (f ≠ 0#8 → (∀ a, named a → travels a) → (∃ a, named a ∧ (s.asm a).summary = .unknown) → refused .unhomed) ∧
      (f ≠ 0#8 → (∀ a, named a → travels a ∧ (s.asm a).summary ≠ .unknown ∧ (s.asmCfg a).channels ≠ []) →
        builds 2#8 (byte (maskAsms f).length) 0#8 0 0 ((maskAsms f).map fun a => byte a.val ::
          (match (s.asm a).summary, (s.asmCfg a).channels with
            | .atIn, _ => [0#8, 0#8, 0#8]
            | .atOut, _ => [1#8, 0#8, 0#8]
            | _, c :: _ => 2#8 :: le16 (s.chan c).position
            | _, [] => []))))

/-- R160, R164, R165, R166: the image of a save, staged or captured, and its refusals. -/
def Obligations.SavedImages : Prop :=
  Clause.StagedImage ∧ Clause.CapturedImage

/-- R153, R160, R162: an erase step that is not the last of its operation's erases, or that a program follows: the unit
stands erased, every other byte as before, and the next step runs in full. -/
def Clause.EraseStepGoesOn : Prop :=
  ∀ (op : Operation) (u : Nat) (s : State), s.taking = true → s.nv.mem.wf = true → s.store.state = .erasing →
    s.store.op = some op → op.step = .erase u → u < op.place.units → (u + 1 < op.place.units ∨ op.kind ≠ .erase) → ∃ t,
      exec (.eraseStepEnd []) s = .next t ∧
      (∀ a : Nat, t.nv.mem.read a =
        if op.place.base + 64 * u ≤ a ∧ a < op.place.base + 64 * u + 64 then 0xFF#8 else s.nv.mem.read a) ∧
      t.nv.marks = s.nv.marks ∧ t.store.directory = s.store.directory ∧ t.store.queue = s.store.queue ∧
      (u + 1 < op.place.units → t.store.state = .erasing ∧
        t.store.op = some { op with step := .erase (u + 1), remaining := 25000 }) ∧
      (u + 1 = op.place.units → t.store.state = .programming ∧
        t.store.op = some { op with step := .row 0, remaining := 1500 }) ∧
      t.channels = s.channels ∧ t.orders = s.orders ∧ t.port = s.port

/-- R153, R160: a row step that is not the last writes its 16 bytes into the row, which stands erased, and the next row
runs; every other byte of the array stands. -/
def Clause.RowStepGoesOn : Prop :=
  ∀ (op : Operation) (r : Nat) (s : State), s.taking = true → s.store.state = .programming → s.store.op = some op →
    op.step = .row r → r + 1 < op.place.units * 4 → op.image.length = op.place.units * 64 →
    (∀ j, j < 16 → s.nv.mem.read (op.place.base + 16 * r + j) = 0xFF#8) → s.nv.mem.wf = true → ∃ t,
      exec (.rowStepEnd []) s = .next t ∧
      (∀ j, j < 16 → t.nv.mem.read (op.place.base + 16 * r + j) = at8 op.image (16 * r + j)) ∧
      (∀ a : Nat, a < op.place.base + 16 * r ∨ op.place.base + 16 * r + 16 ≤ a →
        t.nv.mem.read a = s.nv.mem.read a) ∧
      t.store.state = .programming ∧ t.store.op = some { op with step := .row (r + 1), remaining := 1500 } ∧
      t.nv.marks = s.nv.marks ∧ t.store.directory = s.store.directory ∧ t.channels = s.channels ∧ t.port = s.port

/-- R154, R160, R161, R162, R196: the last step of an operation verifies it: passed, the marks are CLOSED, the entry
follows and STORE_DONE is raised; failed, the marks stay, a slot is INVALID and STORE_FAILED is raised. R153: the step erases
the 64 bytes of its unit, or writes the 16 of its row where they stood erased, but for the bytes that did not take it, which
are operands (notes/assumptions/12.md); every other byte of the array stands. -/
def Clause.LastStepVerifies : Prop :=
  ∀ (op : Operation) (flaws : List Host.Cell) (s : State), s.taking = true → s.store.op = some op →
    ∀ i, ((i = Instr.eraseStepEnd flaws ∧ s.store.state = .erasing ∧ op.kind = .erase ∧
            ∃ u, op.step = .erase u ∧ u + 1 = op.place.units) ∨
          (i = Instr.rowStepEnd flaws ∧ s.store.state = .programming ∧ op.kind ≠ .erase ∧
            ∃ r, op.step = .row r ∧ r + 1 = op.place.units * 4)) →
    let sound := fun (a : Nat) => ∀ x ∈ flaws, x.1 ≠ a
    ∃ t, exec i s = .next t ∧ t.store.state = .idle ∧ t.store.op = none ∧ t.setup = s.setup ∧
      t.channels = s.channels ∧ t.orders = s.orders ∧
      (s.nv.mem.wf = true →
        (∀ u, op.step = .erase u →
          let first := op.place.base + 64 * u
          (∀ j, j < 64 → sound (first + j) → t.nv.mem.read (first + j) = 0xFF#8) ∧
          ∀ a, a < first ∨ first + 64 ≤ a → t.nv.mem.read a = s.nv.mem.read a) ∧
        (∀ r, op.step = .row r →
          let first := op.place.base + 16 * r
          (op.image.length = op.place.units * 64 → (∀ j, j < 16 → s.nv.mem.read (first + j) = 0xFF#8) →
            ∀ j, j < 16 → sound (first + j) → t.nv.mem.read (first + j) = at8 op.image (16 * r + j)) ∧
          ∀ a, a < first ∨ first + 16 ≤ a → t.nv.mem.read a = s.nv.mem.read a)) ∧
      let bs := t.nv.mem.readList op.place.base (op.place.units * 64)
      let passed := match op.kind with
        | .erase => bs.all (fun b => decide (b = 0xFF#8)) = true
        | .save => bs = op.image ∧ imageCrcOk bs = true ∧ validEntry bs ≠ none
        | .commit => bs = op.image
      (passed → t.flag .storeDone = true ∧ (∀ u ∈ op.place.marks, t.nv.marks[u] = false) ∧
        (∀ q, op.place = .slot q → op.kind = .erase → (t.store.directory[q]).state = .empty) ∧
        (∀ q, op.place = .slot q → op.kind = .save → some (t.store.directory[q]) = validEntry bs) ∧
        (op.place = .setupArea → t.sys.status = (if s.sys.status = .unconfigured then .configured else s.sys.status))) ∧
      (¬passed → t.flag .storeFailed = true ∧ t.nv.marks = s.nv.marks ∧ t.sys = s.sys ∧
        (∀ q, op.place = .slot q → t.store.directory[q] = DirEntry.plain .invalid))

/-- R153, R154, R160 to R162, R196: the steps of a store operation, up to its verify. The bytes that did not take the last
step are operands (DESIGN CHOICE, notes/assumptions/12.md), and the end of a step as a command comes whatever time is left
(DESIGN CHOICE, notes/assumptions/3.md). -/
def Obligations.StoreSteps : Prop :=
  Clause.EraseStepGoesOn ∧ Clause.RowStepGoesOn ∧ Clause.LastStepVerifies

/-- R172: the guard comes to be met: with a read waiting the running step halts for 0.15 ms, its remaining time standing;
with none the operation goes on. -/
def Clause.GuardSuspends : Prop :=
  ∀ (op : Operation) (s : State), s.taking = true → s.store.op = some op →
    (s.store.state = .erasing ∨ s.store.state = .programming) → op.guard ≤ 1000 →
    (s.store.queue ≠ [] → exec .guardMet s = .next { s with store := { s.store with
      state := .suspended, halt := some 150,
      op := some { op with
        guard := 1000, haltedFrom := if s.store.state = .erasing then .erasing else .programming } } }) ∧
    (s.store.queue = [] →
      exec .guardMet s = .next { s with store := { s.store with op := some { op with guard := 1000 } } })

/-- R172, R171: with nothing queued any more, a halt that completes resumes the halted step with a guard of zero progress,
and an IDLE store has nothing to serve. -/
def Clause.HaltResumes : Prop :=
  ∀ s : State, s.taking = true → s.store.queue = [] →
    (∀ op, s.store.state = .suspended → s.store.op = some op →
      exec .haltComplete s = .next { s with store := { s.store with
        state := (match op.haltedFrom with
          | .erasing => .erasing
          | .programming => .programming),
        op := some { op with guard := 0 }, halt := none } }) ∧
    (s.store.state = .idle → exec .serveRead s = .next s)

/-- R96, R171, R172, R173: the two commands that serve the head of the queue: a read served by an IDLE store, and one served
by a halt that completes, after which the halted step resumes with a guard of zero. -/
def Clause.Serves (i : Instr) (s t : State) : Prop :=
  (i = .serveRead ∧ s.store.state = .idle ∧ t.store.state = .idle ∧ t.store.op = s.store.op) ∨
  (i = .haltComplete ∧ s.store.state = .suspended ∧ ∃ op, s.store.op = some op ∧
    t.store.op = some { op with guard := 0 } ∧ t.store.halt = none ∧
    t.store.state = (match op.haltedFrom with
      | .erasing => .erasing
      | .programming => .programming))

/-- A command that serves the head of the queue may be given: an IDLE store, or a halt under way. -/
def Clause.MayServe (i : Instr) (s : State) : Prop :=
  (i = .serveRead ∧ s.store.state = .idle) ∨ (i = .haltComplete ∧ s.store.state = .suspended ∧ s.store.op ≠ none)

/-- R96, R171, R172, R173: a served read whose CRC has failed marks a VALID slot INVALID, leaves the queue, and ends its
LOADING order FAILED, reason PROFILE_INVALID. -/
def Clause.FailedReadFailsTheOrder : Prop :=
  ∀ (i : Instr) (r : ReadEntry) (rest : List ReadEntry) (k : OrderSlot) (o : Order) (s : State), s.quiet = true →
    Clause.MayServe i s → s.store.queue = r :: rest → s.findOrder r.order = some k → s.order k = some o →
    o.state = .loading → imageCrcOk (s.slotBytes r.slot) = false → ∃ t,
      exec i s = .next t ∧ Clause.Serves i s t ∧
      t.store.queue = rest.filter (fun x => decide (x.order ≠ r.order)) ∧
      ((s.store.directory[r.slot]).state = .valid → (t.store.directory[r.slot]).state = .invalid) ∧
      Ended t k .failed (some .profileInvalid) ∧ t.channels = s.channels

/-- R96 steps 2 and 3, R117, R129: a served read that passes its CRC. A PRESET that does not match ends its order FAILED,
reason PROFILE_MISMATCH; one that matches gives the order its targets, in ascending assembly order, and each entry its
direction: the order is ARMED with its time of 30 s, or RUNNING, its channel driven, or STOPPED by a hold without motion. -/
def Clause.ServedPreset : Prop :=
  ∀ (i : Instr) (r : ReadEntry) (rest : List ReadEntry) (k : OrderSlot) (o : Order) (ts : List TargetEntry) (s : State),
    s.quiet = true → Clause.MayServe i s → s.store.queue = r :: rest → s.findOrder r.order = some k →
    s.order k = some o → o.state = .loading → o.kind = .recall → o.profileKind = some .preset →
    imageCrcOk (s.slotBytes r.slot) = true → readImage (s.slotBytes r.slot) = some (.preset ts) →
    let as := ts.map (·.asm)
    let matched := as.Nodup ∧
      (∀ a ∈ as, o.mask.getLsbD a.val = true ∧ (s.asmCfg a).kind ≠ .stance) ∧
      (∀ a : Asm, o.mask.getLsbD a.val = true → a ∈ as) ∧
      ∀ t ∈ ts, ∀ q, t.target = .at q →
        ∀ c ∈ (s.asmCfg t.asm).channels, q ≤ (s.cfg c).span ∧ (s.chan c).positionKnown = true
    (¬matched → ∃ t, exec i s = .next t ∧ Clause.Serves i s t ∧ Ended t k .failed (some .profileMismatch) ∧
      t.channels = s.channels) ∧
    (matched → o.mode = .armed → ∃ t u, exec i s = .next t ∧ Clause.Serves i s t ∧ t.store.queue = rest ∧
      t.order k = some u ∧ u.state = .armed ∧ u.armed = some 30000000 ∧ t.channels = s.channels ∧
      t.claims = s.claims ∧ (∀ x, x ∈ u.targets ↔ x ∈ ts) ∧ (u.targets.map (·.asm.val)).Pairwise (· < ·) ∧
      u.entries.map (·.chan) = o.entries.map (·.chan) ∧
      ∀ e ∈ u.entries, ∀ (a : Asm) (x : TargetEntry), s.asmOf e.chan = some a → x ∈ ts → x.asm = a →
        e.goal = some x.target.goal ∧ e.direction = x.target.direction (s.chan e.chan).position ∧
        e.state = (if e.direction = none then .arrived else .wait)) ∧
    (∀ (n : Nat) (e : Entry) (x : TargetEntry) (a : Asm) (c : Chan) (d : Dir), matched → o.mode = .now →
      o.owner = .party n → o.entries = [e] → e.chan = c → e.claim = .held → s.claims[c] = some k → ts = [x] →
      x.asm = a → s.asmOf c = some a → (s.asmCfg a).channels = [c] →
      x.target.direction (s.chan c).position = some d →
      (s.blocked c d = true → ∃ t, exec i s = .next t ∧ Clause.Serves i s t ∧ Ended t k .stopped (some .hold) ∧
        t.channels = s.channels) ∧
      (s.blocked c d = false → s.drivable c = true → alreadyThere (s.cfg c) (s.chan c) x.target.goal = false → ∃ t u,
        exec i s = .next t ∧ Clause.Serves i s t ∧ t.order k = some u ∧ u.state = .running ∧
        u.entries.map (fun e => (e.chan, e.state)) = [(c, .moving)] ∧ u.targets = [x] ∧
        Drives (t.chan c) d x.target.goal (if (s.chan c).positionKnown then o.profile else .creep) ∧
        SameButChannel c s t))

/-- R96, R149: a served stance image. One that names other jacks ends its order FAILED, reason PROFILE_MISMATCH; one that
matches is kept for the order, which is ARMED, or RUNNING in REACH, every jack without contact driven OUT at CREEP. -/
def Clause.ServedStance : Prop :=
  ∀ (i : Instr) (r : ReadEntry) (rest : List ReadEntry) (k : OrderSlot) (o : Order) (x : StanceImage) (s : State),
    s.quiet = true → Clause.MayServe i s → s.store.queue = r :: rest → s.findOrder r.order = some k →
    s.order k = some o → o.state = .loading → o.kind = .recall → o.profileKind = some .stance →
    imageCrcOk (s.slotBytes r.slot) = true → readImage (s.slotBytes r.slot) = some (.stance x) →
    let matched := ∃ a : Asm, s.stanceAsm = some a ∧ x.extensions.length = (s.asmCfg a).channels.length ∧
      ∀ c ∈ (s.asmCfg a).channels, ∃ y ∈ x.extensions, y.1 = c
    (¬matched → ∃ t, exec i s = .next t ∧ Clause.Serves i s t ∧ Ended t k .failed (some .profileMismatch) ∧
      t.channels = s.channels) ∧
    (matched → o.mode = .armed → ∃ t, exec i s = .next t ∧ Clause.Serves i s t ∧ t.store.queue = rest ∧
      t.order k = some { o with image := some x, recallAhead := true, state := .armed, armed := some 30000000 } ∧
      t.channels = s.channels ∧ t.claims = s.claims) ∧
    (∀ a : Asm, matched → o.mode = .now → s.stanceAsm = some a → o.entries ≠ [] →
      (∀ e ∈ o.entries, e.claim = .held ∧ s.asmOf e.chan = some a ∧ s.drivable e.chan = true ∧
        (s.chan e.chan).auxActive = false ∧ (s.chan e.chan).positionKnown = true ∧ s.blocked e.chan .dirOut = false ∧
        alreadyThere (s.cfg e.chan) (s.chan e.chan) .endOut = false) → ∃ t u,
      exec i s = .next t ∧ Clause.Serves i s t ∧ t.order k = some u ∧ u.state = .running ∧ u.stage = .reach ∧
      u.pass = 1 ∧ u.image = some x ∧ u.recallAhead = true ∧ (∀ e ∈ u.entries, e.state = .moving) ∧
      ∀ e ∈ o.entries, Drives (t.chan e.chan) .dirOut .endOut .creep)

/-- R96, R171, R172, R173: suspension, resumption, and served reads, by an IDLE store and by a halt that completes. GUARD_MET
as a command says that the guard is met, and HALT_COMPLETE that the halt is over (DESIGN CHOICE, notes/assumptions/3.md). -/
def Obligations.ReadsSuspendAndAreServed : Prop :=
  Clause.GuardSuspends ∧ Clause.HaltResumes ∧ Clause.FailedReadFailsTheOrder ∧ Clause.ServedPreset ∧ Clause.ServedStance

/-! ## The order table -/

/-- R93, R94, R117: an ORDER_TRAVEL with start mode ARMED that passes every check makes an ARMED order in the lowest free
party slot, with an entry for each channel of its assemblies. -/
def Clause.ArmedTravel : Prop :=
  ∀ (p : Byte) (args : List Byte) (ts : List TargetEntry) (pr : Profile) (f : Bool) (k : OrderSlot) (s : State),
    s.ordering = true → p.toNat < 8 → formOrderTravel args = true → travelArgs args = some (ts, pr, .armed, f) →
    (∀ t ∈ ts, s.targetInSpan t.asm t.target = true ∧ s.travels t.asm = true ∧ s.targetHomed t.asm t.target = true) →
    s.freePartySlot = some k →
    let cs := s.maskMembers (at8 args 0)
    s.unclaimed cs = true →
    (∀ c ∈ cs, ∃ g, s.targetFor ts c = some g ∧
      ∀ d, g.direction (s.chan c).position = some d → s.blocked c d = false) →
    (∃ c ∈ cs, ∃ g, s.targetFor ts c = some g ∧ g.direction (s.chan c).position ≠ none) →
    ∃ t o, exec (.orderTravel p args) s = .next t ∧ Armed s t k o ∧ o.owner = .party p.toNat ∧ o.kind = .travel ∧
      o.mask = at8 args 0 ∧ o.targets = ts ∧ o.profile = pr ∧ o.mode = .armed ∧ o.supersede = f ∧
      o.entries.map (·.chan) = allChans.filter (fun c => decide (c ∈ cs)) ∧
      ∀ e ∈ o.entries, e.claim = .held ∧ ∃ g, s.targetFor ts e.chan = some g ∧ e.goal = some g.goal ∧
        e.direction = g.direction (s.chan e.chan).position ∧
        e.state = (if e.direction = none then .arrived else .wait)

/-- R93, R94, R125, R138, R147: ORDER_JOG, ORDER_LEVEL and ORDER_STOW with start mode ARMED; the direction of a STOW's entries
is notes/assumptions/62.md (DESIGN CHOICE). -/
def Clause.ArmedJogLevelStow : Prop :=
  ∀ (p f lo hi : Byte) (sup : Bool) (c : Chan) (a : Asm) (k : OrderSlot) (s : State), s.ordering = true → p.toNat < 8 →
    boolOf f = some sup → s.freePartySlot = some k →
    (∀ d : Int, d = sx16 lo hi → d ≠ 0 → d.natAbs ≤ 2000 → s.asmOf c = some a → s.unclaimed [c] = true →
      s.blocked c (if 0 < d then .dirOut else .dirIn) = false → ∃ t o,
        exec (.orderJog p [byte c.val, lo, hi, 1#8, f]) s = .next t ∧ Armed s t k o ∧ o.owner = .party p.toNat ∧
        o.kind = .jog ∧ o.mask = BitVec.twoPow 8 a.val ∧ o.mode = .armed ∧ o.supersede = sup ∧ o.jogChan = some c ∧
        o.jogDistance = d ∧
        o.entries =
          [{ chan := c, claim := .held, state := .wait, direction := some (if 0 < d then .dirOut else .dirIn),
             lift := 0, goal := some (.distance d.natAbs), contact := false }]) ∧
    (s.stanceAsm = some a → s.unclaimed (s.asmCfg a).channels = true →
      ((∀ j ∈ (s.asmCfg a).channels, s.blocked j .dirOut = false ∧ (s.chan j).positionKnown = true) → ∃ t o,
        exec (.orderLevel p [1#8, f]) s = .next t ∧ Armed s t k o ∧ o.owner = .party p.toNat ∧ o.kind = .level ∧
        o.mask = BitVec.twoPow 8 a.val ∧ o.supersede = sup ∧
        o.entries.map (·.chan) = allChans.filter (fun j => decide (j ∈ (s.asmCfg a).channels))) ∧
      ((∀ j ∈ (s.asmCfg a).channels, s.blocked j .dirIn = false) → ∃ t o,
        exec (.orderStow p [1#8, f]) s = .next t ∧ Armed s t k o ∧ o.owner = .party p.toNat ∧ o.kind = .stow ∧
        o.mask = BitVec.twoPow 8 a.val ∧ o.supersede = sup ∧
        o.entries.map (·.chan) = allChans.filter (fun j => decide (j ∈ (s.asmCfg a).channels)) ∧
        ∀ e ∈ o.entries, e.state = .wait ∧ e.direction = some .dirIn ∧ e.goal = some .endIn))

/-- R93, R94, R117, R125, R138, R147: ORDER_TRAVEL, ORDER_JOG, ORDER_LEVEL and ORDER_STOW with start mode ARMED. The entries
of a STOW have their direction from creation on (DESIGN CHOICE, notes/assumptions/62.md). -/
def Obligations.ArmedOrders : Prop :=
  Clause.ArmedTravel ∧ Clause.ArmedJogLevelStow

/-- R95, R157, R170, R172: a RECALL that passes every check is LOADING; its read joins the end of the queue, and a store
whose guard is not met works on. -/
def Obligations.RecallQueuesItsRead : Prop :=
  ∀ (p : Byte) (args : List Byte) (slot : ProfileSlot) (pr : Profile) (m : StartMode) (f : Bool) (kind : ProfileKind)
    (k : OrderSlot) (s : State), s.ordering = true → p.toNat < 8 → args.length = 5 →
    recallArgs args = some (slot, pr, m, f) →
    let cs := s.maskMembers (at8 args 1)
    (∀ a ∈ maskAsms (at8 args 1), (s.asmCfg a).kind ≠ .none) → s.recallKind slot (at8 args 1) = .ok kind →
    (kind = .stance → ∀ c ∈ cs, (s.chan c).positionKnown = true ∧ s.blocked c .dirOut = false) →
    s.freePartySlot = some k → s.unclaimed cs = true →
    (∀ op, s.store.op = some op → op.guard < 1000) → ∃ t o,
      exec (.orderRecall p args) s = .next t ∧ Answers t .ok [s.orderHandle k] ∧ t.order k = some o ∧
      o.state = .loading ∧ o.owner = .party p.toNat ∧ o.kind = .recall ∧ o.mask = at8 args 1 ∧
      o.profileSlot = some slot ∧ o.profileKind = some kind ∧ o.mode = m ∧ o.armed = none ∧
      o.entries.map (·.chan) = allChans.filter (fun c => decide (c ∈ cs)) ∧ (∀ e ∈ o.entries, e.state = .wait) ∧
      (∀ c : Chan, t.claims[c] = if c ∈ cs then some k else s.claims[c]) ∧
      t.store = { s.store with queue := s.store.queue ++ [{ order := s.orderHandle k, slot := slot }] } ∧
      t.pinned slot = s.pinned slot + 1 ∧ SameMotion s t

/-- R97, R125, R10: a jog with start mode NOW drives its channel in the action that makes it. -/
def Clause.JogDrivesAtOnce : Prop :=
  ∀ (p lo hi f : Byte) (c : Chan) (a : Asm) (k : OrderSlot) (s : State), s.quiet = true → s.ordering = true →
    p.toNat < 8 → f.toNat < 2 → sx16 lo hi ≠ 0 → (sx16 lo hi).natAbs ≤ 2000 → s.asmOf c = some a →
    s.freePartySlot = some k → s.unclaimed [c] = true → s.drivable c = true →
    s.blocked c (if 0 < sx16 lo hi then .dirOut else .dirIn) = false →
    jogArrived (s.cfg c) (s.chan c) (if 0 < sx16 lo hi then .dirOut else .dirIn) = false → ∃ t o,
      exec (.orderJog p [byte c.val, lo, hi, 0#8, f]) s = .next t ∧ Answers t .ok [s.orderHandle k] ∧
      JogDrives (s.cfg c) (t.chan c) (sx16 lo hi) ∧ t.order k = some o ∧ o.state = .running ∧
      o.entries.map (fun e => (e.chan, e.state)) = [(c, .moving)] ∧ t.claims[c] = some k ∧ SameButChannel c s t

/-- R36, R37, R94, R97, R117: a TRAVEL NOW of one assembly of one channel to IN or OUT starts the channel toward that end
with its profile, forced to CREEP where the position is unknown. -/
def Clause.TravelDrivesAtOnce : Prop :=
  ∀ (p kind lo hi prof f : Byte) (g : OrderTarget) (pr : Profile) (d : Dir) (c : Chan) (a : Asm) (k : OrderSlot)
    (s : State), s.quiet = true → s.ordering = true → p.toNat < 8 → f.toNat < 2 → orderTargetOf kind (un16 lo hi) = some g →
    profileOf prof = some pr → (g = .inn ∧ d = .dirIn) ∨ (g = .out ∧ d = .dirOut) → s.travels a = true →
    (s.asmCfg a).channels = [c] → s.asmOf c = some a → s.freePartySlot = some k → s.unclaimed [c] = true →
    s.drivable c = true → s.blocked c d = false → alreadyThere (s.cfg c) (s.chan c) g.goal = false → ∃ t o,
      exec (.orderTravel p [BitVec.twoPow 8 a.val, kind, lo, hi, prof, 0#8, f]) s = .next t ∧
      Answers t .ok [s.orderHandle k] ∧
      Drives (t.chan c) d g.goal (if (s.chan c).positionKnown then pr else .creep) ∧ t.order k = some o ∧
      o.state = .running ∧ o.entries.map (fun e => (e.chan, e.state)) = [(c, .moving)] ∧ t.claims[c] = some k ∧
      SameButChannel c s t

/-- R138, R139, R147: a LEVEL NOW begins REACH: a jack without contact is driven OUT at CREEP, one in contact stands ARRIVED
and gets a contact_pos where it has none; with every jack in contact SOLVE begins, or the order fails NO_TILT. A STOW NOW
drives every jack IN, in contact or not, RAMPED where its position is known. No other channel is touched. Jacks that are not
at the end they are sent to. -/
def Clause.LevelAndStowDriveTheJacks : Prop :=
  ∀ (p f : Byte) (a : Asm) (k : OrderSlot) (s : State), s.quiet = true → s.ordering = true → p.toNat < 8 → f.toNat < 2 →
    s.stanceAsm = some a → s.freePartySlot = some k →
    let cs := (s.asmCfg a).channels
    let others := fun (t : State) => ∀ c : Chan, c ∉ cs →
      t.chan c = s.chan c ∧ (s.claims[c] ≠ some k → t.claims[c] = s.claims[c])
    cs ≠ [] → s.unclaimed cs = true → (∀ c ∈ cs, s.asmOf c = some a) →
    ((∀ c ∈ cs, (s.chan c).positionKnown = true ∧ s.blocked c .dirOut = false ∧
        ((s.chan c).auxActive = false →
          s.drivable c = true ∧ alreadyThere (s.cfg c) (s.chan c) .endOut = false)) → ∃ t,
      exec (.orderLevel p [0#8, f]) s = .next t ∧ Answers t .ok [s.orderHandle k] ∧ others t ∧
      (∀ c ∈ cs, (s.chan c).auxActive = true →
        t.chan c = { s.chan c with contactPos := some ((s.chan c).contactPos.getD (s.chan c).position) }) ∧
      ((∃ c ∈ cs, (s.chan c).auxActive = false) → t.lev.stance ≠ .set ∧
        (∃ o, t.order k = some o ∧ o.state = .running ∧ o.stage = .reach ∧ o.pass = 1 ∧
          ∀ e ∈ o.entries, e.state = (if (s.chan e.chan).auxActive then .arrived else .moving)) ∧
        ∀ c ∈ cs, t.claims[c] = some k ∧
          ((s.chan c).auxActive = false → Drives (t.chan c) .dirOut .endOut .creep)) ∧
      ((∀ c ∈ cs, (s.chan c).auxActive = true) →
        (s.tilt.valid = true → (∀ c ∈ cs, t.claims[c] = some k) ∧ t.lev.solveTimer = some 400000 ∧
          ∃ o, t.order k = some o ∧ o.state = .running ∧ o.stage = .solve ∧ o.pass = 1 ∧ o.allArrived = true) ∧
        (s.tilt.valid = false → Ended t k .failed (some .noTilt)))) ∧
    ((∀ c ∈ cs, s.blocked c .dirIn = false ∧ s.drivable c = true ∧
        alreadyThere (s.cfg c) (s.chan c) .endIn = false) → ∃ t o,
      exec (.orderStow p [0#8, f]) s = .next t ∧ Answers t .ok [s.orderHandle k] ∧ t.order k = some o ∧ others t ∧
      o.state = .running ∧ o.stage = .none ∧ (∀ e ∈ o.entries, e.state = .moving) ∧
      (∀ c ∈ cs, t.claims[c] = some k ∧
        Drives (t.chan c) .dirIn .endIn (if (s.chan c).positionKnown then .ramped else .creep)) ∧ t.lev.stance ≠ .set)

/-- R36, R37, R94, R97, R117, R125, R138, R139, R147: a jog, a travel, a LEVEL and a STOW with start mode NOW drive their
channels in the action that makes them, and touch no other channel. -/
def Obligations.OrdersDriveAtOnce : Prop :=
  Clause.JogDrivesAtOnce ∧ Clause.TravelDrivesAtOnce ∧ Clause.LevelAndStowDriveTheJacks

/-- R93, R94: the refusals of ORDER_TRAVEL, in the order they are checked. -/
def Clause.TravelRefusals : Prop :=
  ∀ (p : Byte) (args : List Byte) (s : State), s.ordering = true → p.toNat < 8 → formOrderTravel args = true →
    let refused := fun (r : Result) => exec (.orderTravel p args) s = .next (respond r [] s)
    (at8 args 0 = 0#8 → refused .badArgument) ∧
    (∀ (a : Asm) (kd lo hi pr m f : Byte), args = [BitVec.twoPow 8 a.val, kd, lo, hi, pr, m, f] →
      3 ≤ kd.toNat ∨ 3 ≤ pr.toNat ∨ 2 ≤ m.toNat ∨ 2 ≤ f.toNat → refused .badArgument) ∧
    (travelArgs args = none → refused .badArgument) ∧
    ∀ (ts : List TargetEntry) (pr : Profile) (m : StartMode) (f : Bool), travelArgs args = some (ts, pr, m, f) →
      let inSpan := ∀ t ∈ ts, ∀ q, t.target = .at q → ∀ c ∈ (s.asmCfg t.asm).channels, q ≤ (s.cfg c).span
      let fits := ∀ t ∈ ts, (s.asmCfg t.asm).kind = .slide ∨ (s.asmCfg t.asm).kind = .awning
      let homed := ∀ t ∈ ts, ∀ q, t.target = .at q → ∀ c ∈ (s.asmCfg t.asm).channels, (s.chan c).positionKnown = true
      let cs := s.maskMembers (at8 args 0)
      (¬inSpan → refused .badArgument) ∧
      (inSpan → ¬fits → refused .wrongKind) ∧
      (inSpan → fits → ¬homed → refused .unhomed) ∧
      (inSpan → fits → homed → RefusedByTables (.orderTravel p args) p f cs
        (∃ c ∈ cs, ∃ g d, s.targetFor ts c = some g ∧ g.direction (s.chan c).position = some d ∧ s.blocked c d = true) s)

/-- R93, R94, R125, R138, R147: the refusals of ORDER_JOG, ORDER_LEVEL and ORDER_STOW, in the order they are checked. -/
def Clause.JogLevelStowRefusals : Prop :=
  ∀ (p ch lo hi m f : Byte) (s : State), s.ordering = true → p.toNat < 8 →
    let d := sx16 lo hi
    let jog := Instr.orderJog p [ch, lo, hi, m, f]
    let level := Instr.orderLevel p [m, f]
    let stow := Instr.orderStow p [m, f]
    let refused := fun (i : Instr) (r : Result) => exec i s = .next (respond r [] s)
    (12 ≤ ch.toNat ∨ d = 0 ∨ 2000 < d.natAbs ∨ 2 ≤ m.toNat ∨ 2 ≤ f.toNat → refused jog .badArgument) ∧
    (2 ≤ m.toNat ∨ 2 ≤ f.toNat → refused level .badArgument ∧ refused stow .badArgument) ∧
    (∀ (c : Chan) (sup : Bool), ch = byte c.val → d ≠ 0 → d.natAbs ≤ 2000 → m.toNat < 2 → boolOf f = some sup →
      (s.asmOf c = none → refused jog .wrongKind) ∧
      (s.asmOf c ≠ none → RefusedByTables jog p sup [c] (s.blocked c (if 0 < d then .dirOut else .dirIn) = true) s)) ∧
    (∀ sup : Bool, m.toNat < 2 → boolOf f = some sup →
      ((∀ a : Asm, (s.asmCfg a).kind ≠ .stance) → refused level .wrongKind ∧ refused stow .wrongKind) ∧
      (∀ a : Asm, s.stanceAsm = some a →
        let cs := (s.asmCfg a).channels
        ((∃ c ∈ cs, (s.chan c).positionKnown = false) → refused level .unhomed) ∧
        ((∀ c ∈ cs, (s.chan c).positionKnown = true) →
          RefusedByTables level p sup cs (∃ c ∈ cs, s.blocked c .dirOut = true) s) ∧
        RefusedByTables stow p sup cs (∃ c ∈ cs, s.blocked c .dirIn = true) s))

/-- R93, R94, R95: the refusals of ORDER_RECALL, in the order they are checked. -/
def Clause.RecallRefusals : Prop :=
  ∀ (p q mask pr m f : Byte) (s : State), s.ordering = true → p.toNat < 8 →
    let i := Instr.orderRecall p [q, mask, pr, m, f]
    let refused := fun (r : Result) => exec i s = .next (respond r [] s)
    let named := ∀ a : Asm, mask.getLsbD a.val = true → (s.asmCfg a).kind ≠ .none
    (32 ≤ q.toNat ∨ mask = 0#8 ∨ 3 ≤ pr.toNat ∨ 2 ≤ m.toNat ∨ 2 ≤ f.toNat → refused .badArgument) ∧
    ∀ (slot : ProfileSlot) (sup : Bool), q = byte slot.val → mask ≠ 0#8 → pr.toNat < 3 → m.toNat < 2 →
      boolOf f = some sup →
      let e := s.store.directory[slot]
      let stance := ∀ a : Asm, mask.getLsbD a.val = true → (s.asmCfg a).kind = .stance
      let travels := ∀ a : Asm, mask.getLsbD a.val = true → (s.asmCfg a).kind = .slide ∨ (s.asmCfg a).kind = .awning
      let cs := s.maskMembers mask
      (¬named → refused .wrongKind) ∧
      (named → e.state = .empty → refused .empty) ∧
      (named → e.state = .invalid → refused .profileInvalid) ∧
      (named → e.state = .busy → refused .profileBusy) ∧
      (named → e.state = .valid → e.kind = some .stance → ¬stance → refused .profileMismatch) ∧
      (named → e.state = .valid → e.kind = some .preset → ¬travels → refused .profileMismatch) ∧
      (named → e.state = .valid → e.kind = some .stance → stance →
        ((∃ c ∈ cs, (s.chan c).positionKnown = false) → refused .unhomed) ∧
        ((∀ c ∈ cs, (s.chan c).positionKnown = true) →
          RefusedByTables i p sup cs (∃ c ∈ cs, s.blocked c .dirOut = true) s)) ∧
      (named → e.state = .valid → e.kind = some .preset → travels → RefusedByTables i p sup cs False s)

/-- R93 to R95: a request for an order is refused by the first check that fails, and changes nothing. -/
def Obligations.OrderRefusals : Prop :=
  Clause.TravelRefusals ∧ Clause.JogLevelStowRefusals ∧ Clause.RecallRefusals

/-- R103: a TRAVEL NOW that supersedes an order of its owner on its one channel. An ARMED order ends SUPERSEDED at once, and
the channel is claimed and driven for the new order; a RUNNING order whose moving channel does not qualify for handover is
eased out, and the new order awaits the channel, which goes on as it was. -/
def Clause.Supersedes : Prop :=
  ∀ (p kd lo hi pr : Byte) (g : OrderTarget) (prof : Profile) (d : Dir) (a : Asm) (c : Chan) (k j : OrderSlot)
    (old : Order) (e : Entry) (s : State), s.quiet = true → s.ordering = true → p.toNat < 8 →
    orderTargetOf kd (un16 lo hi) = some g → profileOf pr = some prof → s.travels a = true →
    (s.asmCfg a).channels = [c] → s.asmOf c = some a → s.targetInSpan a g = true → s.targetHomed a g = true →
    g.direction (s.chan c).position = some d → s.blocked c d = false → s.freePartySlot = some k → s.order j = some old →
    old.owner = .party p.toNat → old.kind = .travel → old.entries = [e] → e.chan = c → s.claims[c] = some j →
    s.succs[c] = none →
    let i := Instr.orderTravel p [BitVec.twoPow 8 a.val, kd, lo, hi, pr, 0#8, 1#8]
    (old.state = .armed → e.state = .wait → s.drivable c = true → alreadyThere (s.cfg c) (s.chan c) g.goal = false →
      ∃ t u, exec i s = .next t ∧ Answers t .ok [s.orderHandle k] ∧ Ended t j .superseded (some .claimed) ∧
      t.claims[c] = some k ∧ t.order k = some u ∧ u.state = .running ∧
      u.entries.map (fun e => (e.chan, e.claim, e.state)) = [(c, .held, .moving)] ∧
      Drives (t.chan c) d g.goal (if (s.chan c).positionKnown then prof else .creep) ∧ SameButChannel c s t) ∧
    (old.state = .running → e.state = .moving →
      ((s.chan c).state.pursuing = false ∨ liesAhead (s.chan c) g.goal = false) → ∃ t u v,
      exec i s = .next t ∧ Answers t .ok [s.orderHandle k] ∧ t.channels = s.channels ∧ t.claims = s.claims ∧
      t.succs = s.succs.set c (some k) ∧ t.order j = some u ∧ u.state = .easing ∧
      u.pending = some (.final .superseded (some .claimed)) ∧ Msg.ease c ∈ t.inFlight ∧ t.order k = some v ∧
      v.state = .running ∧ v.entries.map (fun e => (e.chan, e.claim, e.state, e.direction, e.goal)) =
        [(c, .awaited, .wait, some d, some g.goal)] ∧ SameMotion s t)

/-- R104: a moving channel whose new target lies ahead is handed over: retargeted where it is, its claim the new order's, the
old order ended SUPERSEDED. A target found reached is an arrival, reported to the new order (an AT target at the present
position among them: notes/assumptions/44.md, DEDUCED). -/
def Clause.HandsOver : Prop :=
  ∀ (p kd lo hi pr : Byte) (g : OrderTarget) (prof : Profile) (a : Asm) (c : Chan) (k j : OrderSlot) (old : Order)
    (e : Entry) (s : State), s.quiet = true → s.ordering = true → p.toNat < 8 →
    orderTargetOf kd (un16 lo hi) = some g → profileOf pr = some prof → s.travels a = true →
    (s.asmCfg a).channels = [c] → s.asmOf c = some a → s.targetInSpan a g = true → s.targetHomed a g = true →
    s.blocked c (s.chan c).direction = false → s.freePartySlot = some k → s.order j = some old →
    old.owner = .party p.toNat → old.kind = .travel → old.state = .running → old.entries = [e] → e.chan = c →
    e.state = .moving → s.claims[c] = some j → s.succs[c] = none → (s.chan c).state.pursuing = true →
    liesAhead (s.chan c) g.goal = true → ∃ t u,
      exec (.orderTravel p [BitVec.twoPow 8 a.val, kd, lo, hi, pr, 0#8, 1#8]) s = .next t ∧
      Answers t .ok [s.orderHandle k] ∧ Ended t j .superseded (some .claimed) ∧ t.claims[c] = some k ∧
      t.succs[c] = none ∧ t.order k = some u ∧ u.state = .running ∧
      u.entries.map (fun e => (e.chan, e.claim, e.state, e.goal)) = [(c, .held, .moving, some g.goal)] ∧
      (t.chan c).target = g.goal ∧ (t.chan c).overrun = 0 ∧ (t.chan c).direction = (s.chan c).direction ∧
      (t.chan c).profile = (if (s.chan c).positionKnown then prof else .creep) ∧ SameButChannel c s t ∧
      (alreadyThere (s.cfg c) (s.chan c) g.goal = false → (t.chan c).state.pursuing = true ∧
        (t.chan c).position = (s.chan c).position) ∧
      (alreadyThere (s.cfg c) (s.chan c) g.goal = true → (t.chan c).state = .idle ∧
        Msg.report (reportIn t c .arrival none (s.orderHandle k)) ∈ t.inFlight)

/-- R105, R97: the report by which an awaited channel comes to rest: the old order ends with its pending result, the claim
passes, and a RUNNING successor starts the channel, or ends STOPPED where coverage answers BLOCKED; an ARMED one waits. An
awaited entry, an AT target among them, starts in the direction it was given at creation (notes/assumptions/14.md, DEDUCED). -/
def Clause.AwaitedPasses : Prop :=
  ∀ (r : Report) (rest : List Msg) (j k : OrderSlot) (o u : Order) (e w : Entry) (c : Chan) (a : Asm) (d : Dir)
    (tg : Target) (st : OrderState) (re : Option Reason) (n : Nat) (s : State), s.quiet = true →
    s.inFlight = .report r :: rest → r.chan = c → j.val = r.order.toNat % 8 → s.orders[j].gen = r.order.toNat / 8 →
    s.order j = some o → o.state = .easing → o.pending = some (.final st re) → st.live = false → o.kind = .travel →
    o.entries = [e] → e.chan = c → e.state = .moving → s.claims[c] = some j → s.succs[c] = some k → s.order k = some u → k ≠ j →
    u.owner = .party n → u.kind = .travel → u.entries = [w] → w.chan = c → w.claim = .awaited → w.state = .wait →
    w.direction = some d → w.goal = some tg → s.asmOf c = some a → (s.asmCfg a).channels = [c] → ∃ t,
      exec (.channelReport c) s = .next t ∧ Ended t j st re ∧ t.succs[c] = none ∧
      (u.state = .running → s.drivable c = true → alreadyThere (s.cfg c) (s.chan c) tg = false → s.blocked c d = false →
        (∀ q, tg = .at q → (s.chan c).positionKnown = true) →
        t.claims[c] = some k ∧ t.order k = some { u with entries := [{ w with claim := .held, state := .moving }] } ∧
        Drives (t.chan c) d tg (if (s.chan c).positionKnown then u.profile else .creep) ∧ SameButChannel c s t) ∧
      (u.state = .running → s.blocked c d = true → (∀ q, tg = .at q → (s.chan c).positionKnown = true) →
        Ended t k .stopped (some .hold) ∧ t.channels = s.channels) ∧
      (u.state = .armed → t.claims[c] = some k ∧ t.order k = some { u with entries := [{ w with claim := .held }] } ∧
        t.channels = s.channels)

/-- R103, R104, R105: supersede, handover and the passing of an awaited channel, which starts in the direction its entry was
given at creation (DEDUCED, notes/assumptions/14.md). -/
def Obligations.SupersedeAndHandover : Prop :=
  Clause.Supersedes ∧ Clause.HandsOver ∧ Clause.AwaitedPasses

/-- R101: the refusals of AMEND, in the order they are checked; of a RUNNING order the first entry in channel order that
fails gives the answer. -/
def Clause.AmendRefusals : Prop :=
  ∀ (p hd ab kd lo hi : Byte) (k : OrderSlot) (o : Order) (s : State), s.ordering = true → p.toNat < 8 →
    k.val = hd.toNat % 8 → s.orders[k].gen = hd.toNat / 8 → s.order k = some o →
    let refused := fun (r : Result) => exec (.amend p [hd, ab, kd, lo, hi]) s = .next (respond r [] s)
    (o.owner = .monitor → refused .notOwner) ∧
    (∀ n, o.owner = .party n →
      (p.toNat ≠ 0 → p.toNat ≠ n → refused .notOwner) ∧
      (p.toNat = 0 ∨ p.toNat = n →
        (o.kind ≠ .travel → refused .wrongKind) ∧
        (o.kind = .travel → 8 ≤ ab.toNat ∨ 3 ≤ kd.toNat → refused .badArgument) ∧
        ∀ (a : Asm) (g : OrderTarget), o.kind = .travel → ab = byte a.val → orderTargetOf kd (un16 lo hi) = some g →
          let inSpan := ∀ q, g = .at q → ∀ c ∈ (s.asmCfg a).channels, q ≤ (s.cfg c).span
          let homed := ∀ q, g = .at q → ∀ c ∈ (s.asmCfg a).channels, (s.chan c).positionKnown = true
          (o.mask.getLsbD a.val = false ∨ ¬inSpan → refused .badArgument) ∧
          (o.mask.getLsbD a.val = true → inSpan → ¬homed → refused .unhomed) ∧
          (o.mask.getLsbD a.val = true → inSpan → homed →
            (o.state ≠ .armed → o.state ≠ .running → refused .busy) ∧
            ∀ (before after : List Entry) (e : Entry), o.state = .running → o.entries = before ++ e :: after →
              s.asmOf e.chan = some a →
              (∀ m ∈ before, s.asmOf m.chan = some a → m.state = .wait ∨
                (m.state = .moving ∧ (s.chan m.chan).state.pursuing = true ∧
                  liesAhead (s.chan m.chan) g.goal = true)) →
              (e.state = .arrived ∨ e.state = .halted ∨ e.state = .faulted ∨
                (e.state = .moving ∧ (s.chan e.chan).state.pursuing = false) → refused .busy) ∧
              (e.state = .moving → (s.chan e.chan).state.pursuing = true →
                liesAhead (s.chan e.chan) g.goal = false → refused .wrongWay))))

/-- R101: an accepted AMEND. The target entry is replaced. The entries of the assembly take the new target: a MOVING one
keeps its direction, the others take the new one and WAIT (an ARRIVED entry of an ARMED order among them:
notes/assumptions/33.md, DEDUCED). The moving channels of a RUNNING order are retargeted in the same action. -/
def Clause.AmendAccepted : Prop :=
  ∀ (p hd kd lo hi : Byte) (g : OrderTarget) (a : Asm) (k : OrderSlot) (o : Order) (n : Nat) (s : State),
    s.ordering = true → p.toNat < 8 → k.val = hd.toNat % 8 → s.orders[k].gen = hd.toNat / 8 → s.order k = some o →
    o.owner = .party n → (p.toNat = 0 ∨ p.toNat = n) → o.kind = .travel → orderTargetOf kd (un16 lo hi) = some g →
    o.mask.getLsbD a.val = true → s.targetInSpan a g = true → s.targetHomed a g = true →
    let goal := match g with
      | .inn => Target.endIn
      | .out => .endOut
      | .at q => .at q
    let towards := fun (c : Chan) => match g with
      | .inn => some Dir.dirIn
      | .out => some .dirOut
      | .at q =>
        if (s.chan c).position < q then some Dir.dirOut else if q < (s.chan c).position then some .dirIn else none
    let amended := { o with
      targets := o.targets.map fun x => if x.asm = a then { x with target := g } else x,
      entries := o.entries.map fun e =>
        if s.asmOf e.chan ≠ some a then e
        else if e.state = .moving then { e with goal := some goal }
        else { e with goal := some goal, direction := towards e.chan, state := .wait } }
    (o.state = .armed →
      exec (.amend p [hd, byte a.val, kd, lo, hi]) s = .next (respond .ok [] { s with
        orders := s.orders.set k { gen := s.orders[k].gen, order := some amended } })) ∧
    (s.quiet = true → o.state = .running →
      (∀ e ∈ o.entries, s.asmOf e.chan = some a → e.state = .wait ∨
        (e.state = .moving ∧ (s.chan e.chan).state.pursuing = true ∧ liesAhead (s.chan e.chan) goal = true)) → ∃ t,
      exec (.amend p [hd, byte a.val, kd, lo, hi]) s = .next t ∧ Answers t .ok [] ∧ t.order k = some amended ∧
      t.claims = s.claims ∧ t.succs = s.succs ∧ t.setup = s.setup ∧ t.nv = s.nv ∧
      (∀ c : Chan, (∀ e ∈ o.entries, e.chan = c → s.asmOf c = some a → e.state ≠ .moving) → t.chan c = s.chan c) ∧
      ∀ e ∈ o.entries, s.asmOf e.chan = some a → e.state = .moving →
        let c := e.chan
        (t.chan c).target = goal ∧ (t.chan c).overrun = 0 ∧ (t.chan c).direction = (s.chan c).direction ∧
        (t.chan c).travelled = (s.chan c).travelled ∧
        (alreadyThere (s.cfg c) (s.chan c) goal = false → (t.chan c).state.pursuing = true ∧
          (t.chan c).position = (s.chan c).position ∧
          ((s.chan c).state = .paused → (t.chan c).state = .paused)) ∧
        (alreadyThere (s.cfg c) (s.chan c) goal = true → (t.chan c).state = .idle ∧ ∀ j, s.claims[c] = some j →
          Msg.report (reportIn t c .arrival none (s.orderHandle j)) ∈ t.inFlight))

/-- R101: AMEND, refused and accepted; a WAIT entry whose channel only waits for its twin passes (DESIGN CHOICE,
notes/assumptions/52.md), and an ARRIVED entry of an ARMED order takes the target (DEDUCED, notes/assumptions/33.md). -/
def Obligations.AmendReplacesATarget : Prop :=
  Clause.AmendRefusals ∧ Clause.AmendAccepted

/-- R102: CANCEL by the state of the order. -/
def Obligations.CancelByState : Prop :=
  ∀ (p hd : Byte) (k : OrderSlot) (o : Order) (s : State), s.ordering = true → p.toNat < 8 → k.val = hd.toNat % 8 →
    s.orders[k].gen = hd.toNat / 8 → s.order k = some o →
    (p.toNat ≠ 0 → o.owner ≠ .party p.toNat → exec (.cancel p [hd]) s = .next (respond .notOwner [] s)) ∧
    (p.toNat = 0 ∨ o.owner = .party p.toNat →
      (o.state = .loading ∨ o.state = .armed ∨ o.state = .blocked ∨ (o.state = .running ∧ o.anyMoving = false) → ∃ t,
        exec (.cancel p [hd]) s = .next t ∧ Answers t .ok [] ∧ Ended t k .cancelled none ∧
        (∀ r ∈ t.store.queue, r.order ≠ hd)) ∧
      (o.state = .running → o.anyMoving = true → ∃ t u,
        exec (.cancel p [hd]) s = .next t ∧ Answers t .ok [] ∧ t.order k = some u ∧ u.state = .easing ∧
        u.pending = some (.final .cancelled none) ∧ (∀ e ∈ u.entries, e.state ≠ .wait) ∧ SameMotion s t ∧
        t.claims = s.claims ∧ ∀ e ∈ o.entries, e.state = .moving → Msg.ease e.chan ∈ t.inFlight) ∧
      (o.state = .easing ∨ o.state.live = false → exec (.cancel p [hd]) s = .next (respond .ok [] s)))

/-- R100, R138, R149: RELEASE by a party that is neither the owner nor party 0, of an order that is not ARMED, and of one
that lacks a position: of an AT target, or of a jack of a LEVEL or a stance RECALL. Otherwise it takes the order out of
ARMED. -/
def Clause.ReleaseByState : Prop :=
  ∀ (p hd : Byte) (k : OrderSlot) (o : Order) (s : State), s.ordering = true → p.toNat < 8 → k.val = hd.toNat % 8 →
    s.orders[k].gen = hd.toNat / 8 → s.order k = some o →
    let jacks := o.kind = .level ∨ (o.kind = .recall ∧ o.profileKind = some .stance)
    let homed := ∀ e ∈ o.entries, (jacks ∨ ∃ q, e.goal = some (.at q)) → (s.chan e.chan).positionKnown = true
    (p.toNat ≠ 0 → o.owner ≠ .party p.toNat → exec (.release p [hd]) s = .next (respond .notOwner [] s)) ∧
    (p.toNat = 0 ∨ o.owner = .party p.toNat →
      (o.state ≠ .armed → exec (.release p [hd]) s = .next (respond .notArmed [] s)) ∧
      (o.state = .armed → ¬homed → exec (.release p [hd]) s = .next (respond .unhomed [] s)) ∧
      (o.state = .armed → homed → ∃ t,
        exec (.release p [hd]) s = .next t ∧ Answers t .ok [] ∧ t.setup = s.setup ∧ t.nv = s.nv ∧
        ∀ u, t.order k = some u → u.state ≠ .armed))

/-- R97, R100: a RELEASE of an ARMED travel of one channel. An AT target at the position ends it DONE; toward its target, an
AT one from the position as it now stands, the channel is driven, or the order ends STOPPED where coverage answers BLOCKED. -/
def Clause.ReleaseDrivesATravel : Prop :=
  ∀ (p hd : Byte) (k : OrderSlot) (o : Order) (e : Entry) (c : Chan) (a : Asm) (n : Nat) (tg : Target) (s : State),
    s.quiet = true → s.ordering = true → p.toNat < 8 → k.val = hd.toNat % 8 → s.orders[k].gen = hd.toNat / 8 →
    s.order k = some o → o.owner = .party n → (p.toNat = 0 ∨ p.toNat = n) → o.state = .armed → o.kind = .travel →
    o.entries = [e] → e.chan = c → e.claim = .held → s.claims[c] = some k → s.asmOf c = some a → s.travels a = true →
    (s.asmCfg a).channels = [c] → e.goal = some tg →
    (∀ q, tg = .at q → (s.chan c).positionKnown = true → (s.chan c).position = q → ∃ t,
      exec (.release p [hd]) s = .next t ∧ Answers t .ok [] ∧ Ended t k .done none ∧ t.channels = s.channels) ∧
    ∀ d : Dir, (match tg with
        | .at q => (s.chan c).positionKnown = true ∧
            ((d = .dirOut ∧ (s.chan c).position < q) ∨ (d = .dirIn ∧ q < (s.chan c).position))
        | .endIn => d = .dirIn ∧ e.direction = some d ∧ e.state = .wait
        | .endOut => d = .dirOut ∧ e.direction = some d ∧ e.state = .wait
        | .distance _ => False) →
      (s.blocked c d = true → ∃ t, exec (.release p [hd]) s = .next t ∧ Answers t .ok [] ∧
        Ended t k .stopped (some .hold) ∧ t.channels = s.channels) ∧
      (s.blocked c d = false → s.drivable c = true → alreadyThere (s.cfg c) (s.chan c) tg = false → ∃ t u,
        exec (.release p [hd]) s = .next t ∧ Answers t .ok [] ∧
        Drives (t.chan c) d tg (if (s.chan c).positionKnown then o.profile else .creep) ∧ t.order k = some u ∧
        u.state = .running ∧ u.armed = none ∧ u.entries.map (fun e => (e.chan, e.state)) = [(c, .moving)] ∧
        t.claims[c] = some k ∧ SameButChannel c s t)

/-- R100, R138, R139, R147, R149: a RELEASE of an ARMED LEVEL or stance RECALL begins REACH with pass 1, every jack driven OUT
at CREEP; one of an ARMED STOW drives every jack IN, in contact or not. No other channel is touched. Jacks that are not at the
end they are sent to, and of a LEVEL or RECALL without contact. -/
def Clause.ReleaseDrivesTheJacks : Prop :=
  ∀ (p hd : Byte) (k : OrderSlot) (o : Order) (a : Asm) (n : Nat) (s : State), s.quiet = true → s.ordering = true →
    p.toNat < 8 → k.val = hd.toNat % 8 → s.orders[k].gen = hd.toNat / 8 → s.order k = some o → o.owner = .party n →
    (p.toNat = 0 ∨ p.toNat = n) → o.state = .armed → s.stanceAsm = some a → o.entries ≠ [] →
    (o.entries.map (·.chan)).Nodup →
    (∀ e ∈ o.entries, e.claim = .held ∧ s.asmOf e.chan = some a ∧ s.drivable e.chan = true) →
    let others := fun (t : State) => ∀ c : Chan, (∀ e ∈ o.entries, e.chan ≠ c) → t.chan c = s.chan c
    (o.kind = .level ∨ (o.kind = .recall ∧ o.profileKind = some .stance) →
      (∀ e ∈ o.entries, (s.chan e.chan).auxActive = false ∧ (s.chan e.chan).positionKnown = true ∧
        s.blocked e.chan .dirOut = false ∧ alreadyThere (s.cfg e.chan) (s.chan e.chan) .endOut = false) → ∃ t u,
      exec (.release p [hd]) s = .next t ∧ Answers t .ok [] ∧ others t ∧ t.order k = some u ∧ u.state = .running ∧ u.armed = none ∧
      u.stage = .reach ∧ u.pass = 1 ∧ (∀ e ∈ u.entries, e.state = .moving) ∧
      ∀ e ∈ o.entries, Drives (t.chan e.chan) .dirOut .endOut .creep) ∧
    (o.kind = .stow → (∀ e ∈ o.entries, e.state = .wait ∧ e.direction = some .dirIn ∧ e.goal = some .endIn ∧
        s.blocked e.chan .dirIn = false ∧ alreadyThere (s.cfg e.chan) (s.chan e.chan) .endIn = false) → ∃ t u,
      exec (.release p [hd]) s = .next t ∧ Answers t .ok [] ∧ others t ∧ t.order k = some u ∧ u.state = .running ∧ u.armed = none ∧
      (∀ e ∈ u.entries, e.state = .moving) ∧
      ∀ e ∈ o.entries,
        Drives (t.chan e.chan) .dirIn .endIn (if (s.chan e.chan).positionKnown then .ramped else .creep))

/-- R100, R125, R188: a RELEASE of an ARMED jog, or a falling edge on RLS that finds it the one ARMED order, drives its
channel; an edge that finds no ARMED order changes the level of RLS alone, and with it the raw pin
(notes/assumptions/6.md, DESIGN CHOICE). -/
def Clause.ReleaseDrivesAJog : Prop :=
  ∀ (s : State), s.quiet = true →
    ((∀ k o, s.order k = some o → o.state ≠ .armed) → exec .rlsFallingEdge s =
      .next { s with
        port := { s.port with rlsHigh := false, rlsWait := none }, pins := { s.pins with rls := false } }) ∧
    ∀ (p hd : Byte) (k : OrderSlot) (o : Order) (e : Entry) (c : Chan) (d : Int), s.ordering = true → p.toNat < 8 →
      k.val = hd.toNat % 8 → s.orders[k].gen = hd.toNat / 8 → s.order k = some o →
      (p.toNat = 0 ∨ o.owner = .party p.toNat) → o.state = .armed → o.kind = .jog → o.entries = [e] → e.chan = c →
      e.state = .wait → e.claim = .held → e.direction = some (if 0 < d then .dirOut else .dirIn) →
      e.goal = some (.distance d.natAbs) → s.claims[c] = some k → s.drivable c = true →
      s.blocked c (if 0 < d then .dirOut else .dirIn) = false →
      jogArrived (s.cfg c) (s.chan c) (if 0 < d then .dirOut else .dirIn) = false →
      (∃ t u, exec (.release p [hd]) s = .next t ∧ Answers t .ok [] ∧ JogDrives (s.cfg c) (t.chan c) d ∧
        t.order k = some u ∧ u.state = .running ∧ u.armed = none ∧ SameButChannel c s t) ∧
      ((∀ j u, s.order j = some u → u.state = .armed → j = k) → ∃ t u,
        exec .rlsFallingEdge s = .next t ∧ JogDrives (s.cfg c) (t.chan c) d ∧ t.order k = some u ∧
        u.state = .running ∧ u.armed = none ∧ SameButChannel c s t)

/-- R97, R100, R125, R138, R139, R147, R149, R188: RELEASE and the falling edge on RLS, which as a command acts from either
level and sets the raw pin (DESIGN CHOICE, notes/assumptions/5.md and 6.md). -/
def Obligations.Release : Prop :=
  Clause.ReleaseByState ∧ Clause.ReleaseDrivesATravel ∧ Clause.ReleaseDrivesTheJacks ∧ Clause.ReleaseDrivesAJog

/-- R112: RETIRE, its refusals, and the end of the linger: the slot is freed and its generation stepped. LINGER_EXPIRY at a
live order changes nothing (notes/assumptions/3.md, DESIGN CHOICE). -/
def Clause.RetireAndLinger : Prop :=
  ∀ (p hd : Byte) (k : OrderSlot) (o : Order) (s : State), s.ordering = true → p.toNat < 8 → k.val = hd.toNat % 8 →
    s.orders[k].gen = hd.toNat / 8 → s.order k = some o →
    let freed := { s with orders := s.orders.set k { gen := (s.orders[k].gen + 1) % 32, order := none } }
    (p.toNat ≠ 0 → o.owner ≠ .party p.toNat → exec (.retire p [hd]) s = .next (respond .notOwner [] s)) ∧
    (p.toNat = 0 ∨ o.owner = .party p.toNat →
      (o.state.live = true → exec (.retire p [hd]) s = .next (respond .busy [] s)) ∧
      (o.state.live = false → exec (.retire p [hd]) s = .next (respond .ok [] freed))) ∧
    (o.state.live = false → o.linger ≠ none → exec (.lingerExpiry k) s = .next freed) ∧
    (o.state.live = true → exec (.lingerExpiry k) s = .next s)

/-- R106: STOP_ALL, from any party: every channel that is not IDLE is cut where it stands, and every live order ends STOPPED,
reason STOP_ALL; no hold is placed. R184: ORDER_END is raised for the request, also with no order live
(notes/assumptions/46.md, DEDUCED). -/
def Obligations.StopAllStopsEverything : Prop :=
  ∀ (p : Byte) (s : State), s.ordering = true → p.toNat < 8 → ∃ t,
    exec (.stopAll p []) s = .next t ∧ Answers t .ok [] ∧ t.flag .orderEnd = true ∧
    (∀ c : Chan, (t.chan c).state = .idle ∧ (t.chan c).position = (s.chan c).position ∧
      (t.chan c).travelled = (s.chan c).travelled ∧
      ((s.chan c).state = .idle → t.chan c = s.chan c) ∧
      ((s.chan c).state ≠ .idle → (t.chan c).duty = 0 ∧ (t.chan c).stallTimer = none ∧ (t.chan c).rampTimer = none ∧
        (t.chan c).coastTimer = some 200000)) ∧
    (∀ (k : OrderSlot) (o : Order), s.order k = some o → o.state.live = true →
      Ended t k .stopped (some .stopAll) ∧ ∀ u, t.order k = some u → ∀ e ∈ u.entries,
        e.state ≠ .wait ∧ e.state ≠ .moving) ∧
    (∀ (k : OrderSlot) (o : Order), s.order k = some o → o.state.live = false → t.order k = some o) ∧
    t.setup = s.setup ∧ t.nv = s.nv ∧ t.sys = s.sys

/-- R99: an armed timer that runs out ends its order EXPIRED with reason none, and raises ARMED_EXPIRED. -/
def Clause.ArmedTimerExpires : Prop :=
  ∀ (k : OrderSlot) (o : Order) (s : State), s.taking = true → s.order k = some o → o.state = .armed → o.armed ≠ none →
    ∃ t, exec (.armedTimerExpiry k) s = .next t ∧ Ended t k .expired none ∧ t.flag .armedExpired = true ∧
      t.setup = s.setup ∧ t.nv = s.nv ∧ t.sys = s.sys ∧ (s.quiet = true → SameMotion s t ∧ t.holds = s.holds)

/-- R99, R112: RETIRE, the linger and the armed time. An expiry as a command acts whatever time is left and changes nothing
where its timer does not run (DESIGN CHOICE, notes/assumptions/3.md). -/
def Obligations.RetireLingerAndArmedTime : Prop :=
  Clause.RetireAndLinger ∧ Clause.ArmedTimerExpires

/-! ## The drive channels -/

/-- R3, R5, R15, R19, R20, R25: an end sensor that becomes active alone sets the position, ends a motion toward it (an arrival, or a
halt in EASING) and leaves any other motion; both active are a SENSOR_CONFLICT; one that becomes inactive changes its level
alone. -/
def Obligations.EndSensors : Prop :=
  ∀ (c : Chan) (s : State), s.quiet = true →
    let ch := s.chan c
    let homes := fun (t : State) (d : Dir) =>
      SameButChannel c s t ∧ t.claims = s.claims ∧ t.orders = s.orders ∧ (t.chan c).positionKnown = true ∧
      (t.chan c).drift = 0 ∧
      (ch.direction = d → ch.state.pursuing = true → CameToRest c .arrival s t (some d.theEnd)) ∧
      (ch.direction = d → ch.state = .easing → CameToRest c .halt s t) ∧
      (ch.direction ≠ d ∨ ch.state = .idle → (t.chan c).state = ch.state ∧ (t.chan c).duty = ch.duty ∧
        (t.chan c).target = ch.target ∧ (t.chan c).coastTimer = ch.coastTimer)
    let conflicts := fun (t : State) =>
      SameButChannel c s t ∧ t.claims = s.claims ∧ t.orders = s.orders ∧ (t.chan c).positionKnown = false ∧
      (t.chan c).drift = 0 ∧ (t.chan c).contactPos = none ∧ (t.chan c).lastFault = some .sensorConflict ∧
      (t.chan c).state = .idle ∧ (t.chan c).inActive = true ∧ (t.chan c).outActive = true ∧ t.flag .fault = true ∧
      (ch.state ≠ .idle → CameToRest c (.fault .sensorConflict) s t)
    (ch.inActive = false → ch.outActive = false →
      (∃ t, exec (.inBecomesActive c) s = .next t ∧ (t.chan c).inActive = true ∧ (t.chan c).position = 0 ∧
        homes t .dirIn) ∧
      (∃ t, exec (.outBecomesActive c) s = .next t ∧ (t.chan c).outActive = true ∧
        (t.chan c).position = (s.cfg c).span ∧ homes t .dirOut ∧
        t.flag .spanDrift = (s.flag .spanDrift || (ch.positionKnown &&
          decide (ch.heldTolerance.getD (s.cfg c).endTolerance <
            if ch.position < (s.cfg c).span then (s.cfg c).span - ch.position else ch.overrun))))) ∧
    (ch.inActive = false → ch.outActive = true → ∃ t, exec (.inBecomesActive c) s = .next t ∧ conflicts t) ∧
    (ch.inActive = true → ch.outActive = false → ∃ t, exec (.outBecomesActive c) s = .next t ∧ conflicts t) ∧
    (ch.inActive = true → ∃ t, exec (.endBecomesInactive c .inEnd) s = .next t ∧ SameButChannel c s t ∧
      t.orders = s.orders ∧ t.chan c = { ch with inActive := false, eniWait := none }) ∧
    (ch.outActive = true → ∃ t, exec (.endBecomesInactive c .outEnd) s = .next t ∧ SameButChannel c s t ∧
      t.orders = s.orders ∧ t.chan c = { ch with outActive := false, enoWait := none })

/-- R24, R83, R84, R133, R134: TRP active is a fault, with the FAULT hold of the channel's assembly ACTIVE; its end puts the
hold in PENDING_CLEAR once no condition stands. AUX active writes a jack's contact_pos; a SET stance does not outlast a jack's
loss of contact. -/
def Obligations.TripsAndContact : Prop :=
  ∀ (c : Chan) (s : State), s.quiet = true →
    let ch := s.chan c
    (ch.trpActive = false → ∃ t,
      exec (.trpBecomesActive c) s = .next t ∧ SameButChannel c s t ∧ t.orders = s.orders ∧ t.claims = s.claims ∧
      (t.chan c).trpActive = true ∧ (t.chan c).lastFault = some .trip ∧ (t.chan c).state = .idle ∧
      (t.chan c).position = ch.position ∧ (t.chan c).positionKnown = ch.positionKnown ∧ t.flag .fault = true ∧
      (ch.state ≠ .idle → CameToRest c (.fault .trip) s t) ∧
      (∀ a : Asm, Inv s → s.asmOf c = some a → c ∈ (s.asmCfg a).channels →
        ∃ h x, t.hold h = some x ∧ x.cause = .fault ∧ x.subject = some a.val ∧ x.state = .active ∧ x.blocks = .both ∧
          x.scope.getLsbD a.val = true ∧ ((s.asm a).engaged = false → x.detail = some .trip))) ∧
    (ch.trpActive = true → ∃ t,
      exec (.trpBecomesInactive c) s = .next t ∧ SameButChannel c s t ∧ t.orders = s.orders ∧
      t.chan c = { ch with trpActive := false } ∧
      (∀ (a : Asm) (h : HoldSlot) (x : Hold), Inv s → s.asmOf c = some a → s.hold h = some x → x.owner = .monitor →
        x.cause = .fault → x.subject = some a.val → x.state = .active →
        (∀ d ∈ (s.asmCfg a).channels, (d ≠ c → (s.chan d).trpActive = false) ∧
          ((s.chan d).inActive && (s.chan d).outActive) = false) →
        t.hold h = some { x with state := .pendingClear } ∧ t.flag .holdClearable = true)) ∧
    (∀ b : Bool, ch.auxActive ≠ b → ∃ t,
      exec (.auxChange c b) s = .next t ∧ SameButChannel c s t ∧
      t.chan c = { ch with
        auxActive := b, auxWait := none,
        contactPos := if s.isJack c && b && ch.positionKnown then some ch.position else ch.contactPos } ∧
      (s.isJack c = true → b = false → s.lev.stance = .set → t.lev.stance ≠ .set ∧ t.flag .stanceLost = true) ∧
      (s.isJack c = false → t.lev = s.lev ∧ t.orders = s.orders ∧ t.holds = s.holds))

/-- R9, R16, R17, R18, R21, R22, R23: what a count does: drift after the coast window, a coast count within it, and in motion one
more of travelled and one step of a known position within the clamp; an AT or DISTANCE target met is an arrival, and an end
not found, by overrun at a known position and by travelled at an unknown one, is END_MISSING. A count that meets none of
these ends STARTING once creep_in is travelled, and RUNNING where the distance-to-go has come down to approach; it restarts
the stall timer, but not of a PAUSED channel. -/
def Obligations.Counts : Prop :=
  ∀ (c : Chan) (s : State), s.quiet = true →
    let ch := s.chan c
    let moved := match ch.direction with
      | .dirOut => if (s.cfg c).span ≤ ch.position then ch.position else ch.position + 1
      | .dirIn => ch.position - 1
    let place := if ch.positionKnown then moved else ch.position
    let far := min (ch.travelled + 1) 65535
    let seeksEnd := ch.target = .endIn ∨ ch.target = .endOut
    let clamped := match ch.direction with
      | .dirOut => decide ((s.cfg c).span ≤ ch.position)
      | .dirIn => decide (ch.position = 0)
    let past := if ch.positionKnown && clamped && ch.target.isEnd then ch.overrun + 1 else ch.overrun
    let missed := if ch.positionKnown then (s.cfg c).endWindow ≤ past else (s.cfg c).span + (s.cfg c).endWindow ≤ far
    let met := (∃ p, ch.target = .at p ∧ ch.positionKnown = true ∧ moved = p) ∨ ch.target = .distance far
    let goesOn := ¬met ∧ ¬(seeksEnd ∧ missed)
    let toGo := match ch.target with
      | .at p => if ch.positionKnown then some ((p - moved) + (moved - p)) else none
      | .endIn => if ch.positionKnown then some moved else none
      | .endOut => if ch.positionKnown then some ((s.cfg c).span - moved) else none
      | .distance d => some (d - far)
    let near := ∃ d, toGo = some d ∧ d ≤ (s.cfg c).approach
    ∃ t, exec (.count c) s = .next t ∧ SameButChannel c s t ∧
      (ch.state = .idle → ch.coastTimer = none → ch.positionKnown = true → ch.drift < 15 →
        t.chan c = { ch with drift := ch.drift + 1 }) ∧
      (ch.state = .idle → ch.coastTimer = none → ch.positionKnown = true → 15 ≤ ch.drift →
        t.chan c = { ch with positionKnown := false, drift := 0, contactPos := none } ∧
        t.flag .positionLost = true) ∧
      (ch.state = .idle → ch.coastTimer = none → ch.positionKnown = false → t.chan c = ch) ∧
      (ch.state = .idle → ch.coastTimer ≠ none →
        t.chan c = { ch with travelled := min (ch.travelled + 1) 65535, position := place }) ∧
      (ch.state ≠ .idle → (t.chan c).travelled = min (ch.travelled + 1) 65535 ∧ (t.chan c).position = place ∧
        (t.chan c).positionKnown = ch.positionKnown ∧ (t.chan c).drift = ch.drift) ∧
      (ch.state = .easing → (t.chan c).state = .easing ∧ (t.chan c).duty = ch.duty ∧
        (t.chan c).stallTimer = some ((s.cfg c).stallTime * 1000)) ∧
      (∀ p, ch.state.pursuing = true → ch.target = .at p → ch.positionKnown = true → moved = p →
        CameToRest c .arrival s t) ∧
      (∀ d, ch.state.pursuing = true → ch.target = .distance d → min (ch.travelled + 1) 65535 = d →
        CameToRest c .arrival s t) ∧
      (ch.state.pursuing = true → seeksEnd → missed →
        CameToRest c (.fault .endMissing) s t ∧ (t.chan c).lastFault = some .endMissing ∧ t.flag .fault = true) ∧
      (ch.state.pursuing = true → goesOn → (t.chan c).overrun = past ∧ (t.chan c).target = ch.target ∧
        (t.chan c).lastFault = ch.lastFault ∧
        (t.chan c).stallTimer = (if ch.state = .paused then ch.stallTimer else some ((s.cfg c).stallTime * 1000)) ∧
        (ch.state = .starting → far < (s.cfg c).creepIn → (t.chan c).state = .starting ∧ (t.chan c).duty = ch.duty) ∧
        ((ch.state = .starting ∧ (s.cfg c).creepIn ≤ far) ∨ ch.state = .running → near → (t.chan c).state = .approach ∧
          (t.chan c).duty = (if ch.profile = .ramped then ch.duty else (s.cfg c).creepDuty)) ∧
        (ch.state = .starting → (s.cfg c).creepIn ≤ far → ¬near → (t.chan c).state = .running ∧
          (t.chan c).duty = (match ch.profile with
            | .creep => (s.cfg c).creepDuty
            | .run => (s.cfg c).runDuty
            | .ramped => ch.duty)) ∧
        (ch.state = .running → ¬near → (t.chan c).state = .running ∧ (t.chan c).duty = ch.duty) ∧
        (ch.state = .approach ∨ ch.state = .paused → (t.chan c).state = ch.state ∧ (t.chan c).duty = ch.duty))

/-- R7, R8, R23: the ramp interval, the stall timer and the coast window of a channel expire. An expiry as a command acts
whatever time is left and changes nothing where its timer does not run (DESIGN CHOICE, notes/assumptions/3.md). -/
def Obligations.ChannelTimers : Prop :=
  ∀ (c : Chan) (s : State), s.quiet = true →
    let ch := s.chan c
    let x := s.cfg c
    let stops := fun (t : State) (p : Nat) =>
      CameToRest c .arrival s t ∧ (t.chan c).position = p ∧ (t.chan c).positionKnown = true ∧ (t.chan c).drift = 0
    exec (.coastWindowExpiry c) s = .next { s with channels := s.channels.set c { ch with coastTimer := none } } ∧
    (ch.rampTimer = none → exec (.rampInterval c) s = .next s) ∧
    (ch.rampTimer ≠ none → ∃ t, exec (.rampInterval c) s = .next t ∧ SameButChannel c s t ∧
      (ch.state = .running → (t.chan c).state = .running ∧ (t.chan c).duty = min (ch.duty + x.rampStep) x.runDuty ∧
        ((t.chan c).rampTimer = some 20000 ↔ ch.profile = .ramped ∧ (t.chan c).duty < x.runDuty)) ∧
      (ch.state = .approach → (t.chan c).state = .approach ∧ (t.chan c).duty = max (ch.duty - x.rampStep) x.creepDuty ∧
        ((t.chan c).rampTimer = some 20000 ↔ ch.profile = .ramped ∧ x.creepDuty < (t.chan c).duty)) ∧
      (ch.state = .easing → x.rampStep < ch.duty → (t.chan c).state = .easing ∧
        (t.chan c).duty = ch.duty - x.rampStep ∧ (t.chan c).rampTimer = some 20000) ∧
      (ch.state = .easing → ch.duty ≤ x.rampStep → CameToRest c .halt s t)) ∧
    (ch.stallTimer = none → exec (.stallTimerExpiry c) s = .next s) ∧
    (ch.stallTimer ≠ none → ∃ t, exec (.stallTimerExpiry c) s = .next t ∧ SameButChannel c s t ∧
      (ch.state.driving = true → ch.target = .endIn → x.inMode = .stall →
        (ch.positionKnown = false ∨ ch.position ≤ x.endWindow) → stops t 0) ∧
      (ch.state.driving = true → ch.target = .endOut → x.outMode = .stall →
        (ch.positionKnown = false ∨ x.span - ch.position ≤ x.endWindow) → stops t x.span) ∧
      (ch.state.driving = true →
        ((ch.target = .endIn ∧ (x.inMode = .sensor ∨ (ch.positionKnown = true ∧ x.endWindow < ch.position))) ∨
          (ch.target = .endOut ∧ (x.outMode = .sensor ∨
            (ch.positionKnown = true ∧ x.endWindow < x.span - ch.position))) ∨
          (∃ p, ch.target = .at p) ∨ ∃ d, ch.target = .distance d) →
        CameToRest c (.fault .stall) s t ∧ (t.chan c).lastFault = some .stall ∧ t.flag .fault = true) ∧
      (ch.state = .easing → CameToRest c .halt s t ∧ (t.chan c).lastFault = ch.lastFault))

/-- R12, R13, R14: pause, resume, cut and ease, by the state they are taken in, also where no block has sent them (DESIGN
CHOICE, notes/assumptions/4.md). -/
def Obligations.ChannelCommands : Prop :=
  ∀ (c : Chan) (s : State), s.quiet = true →
    let ch := s.chan c
    let x := s.cfg c
    (∃ t, exec (.pause c) s = .next t ∧ SameButChannel c s t ∧ t.orders = s.orders ∧
      (∀ st pf, ch.state = st → (st, pf) ∈ [(ChState.starting, PausedFrom.starting), (.running, .running),
          (.approach, .approach)] →
        t.chan c = { ch with
          state := .paused, pausedFrom := pf, dutyHeld := ch.duty, duty := 0, stallTimer := none, rampTimer := none }) ∧
      (ch.state.driving = false → t.chan c = ch)) ∧
    (∃ t, exec (.resume c) s = .next t ∧ SameButChannel c s t ∧ t.orders = s.orders ∧
      (ch.state ≠ .paused → t.chan c = ch) ∧
      (ch.state = .paused → (t.chan c).stallTimer = some (x.stallTime * 1000) ∧
        (ch.pausedFrom = .starting → ch.travelled < x.creepIn →
          (t.chan c).state = .starting ∧ (t.chan c).duty = x.creepDuty) ∧
        (ch.pausedFrom = .approach → (t.chan c).state = .approach ∧ (t.chan c).duty = x.creepDuty) ∧
        (ch.pausedFrom = .running → nearTarget x ch = false → (t.chan c).state = .running ∧
          (t.chan c).duty = (match ch.profile with
            | .creep => x.creepDuty
            | .run => x.runDuty
            | .ramped => ch.dutyHeld)) ∧
        (ch.pausedFrom = .running → nearTarget x ch = true → (t.chan c).state = .approach))) ∧
    (∃ t, exec (.cut c) s = .next t ∧ SameButChannel c s t ∧ t.orders = s.orders ∧
      (ch.state = .idle → t.chan c = ch) ∧
      (ch.state ≠ .idle → CameToRest c .halt s t ∧ (t.chan c).position = ch.position ∧
        (t.chan c).positionKnown = ch.positionKnown ∧ (t.chan c).travelled = ch.travelled ∧
        (t.chan c).overrun = ch.overrun)) ∧
    (∃ t, exec (.ease c) s = .next t ∧ SameButChannel c s t ∧ t.orders = s.orders ∧
      (ch.state.driving = true → t.chan c = { ch with state := .easing, rampTimer := some 20000 }) ∧
      (ch.state = .paused → CameToRest c .halt s t) ∧
      (ch.state = .idle ∨ ch.state = .easing → t.chan c = ch))

/-! ## Twins -/

/-- R29, R41: a twin assembly, its first and second channel, both claimed by one order, and engaged; neither is a jack that the
leveller moves. -/
structure Clause.Engaged (s : State) (a : Asm) (c d : Chan) (k : OrderSlot) : Prop where
  kind     : (s.asmCfg a).kind = .slide ∨ (s.asmCfg a).kind = .awning
  channels : (s.asmCfg a).channels = [c, d]
  apart    : c ≠ d
  member   : s.asmOf c = some a ∧ s.asmOf d = some a
  claims   : s.claims[c] = some k ∧ s.claims[d] = some k
  engaged  : (s.asm a).engaged = true
  unstaged : ∀ j o, s.order j = some o → o.state = .running → o.staged = true → ∀ e ∈ o.entries, e.chan ≠ c ∧ e.chan ≠ d

/-- R42: the skew between two channels, from their positions where both are known, else from their travelled. -/
def Clause.skewOf (x y : Channel) : Int :=
  if x.positionKnown && y.positionKnown then (x.position : Int) - y.position else (x.travelled : Int) - y.travelled

/-- R42: what a measurement leaves in the pairing state of an engaged pair: basis, skew and leader. -/
def Clause.Measured (t : State) (a : Asm) (c d : Chan) : Prop :=
  let x := t.chan c
  let y := t.chan d
  let skew := Clause.skewOf x y
  let lead := if x.positionKnown && y.positionKnown && decide (x.direction = .dirIn) then -skew else skew
  (t.asm a).engaged = true ∧
  (t.asm a).basis = (if x.positionKnown && y.positionKnown then .position else .travelled) ∧ (t.asm a).skew = skew ∧
  (t.asm a).leader = (if 0 < lead then some .first else if lead < 0 then some .second else none)

/-- R39, R41, R42: a TRAVEL NOW of a twin to an end starts both channels in one action, engages the pair and measures it. -/
def Clause.PairEngages : Prop :=
  ∀ (p kd lo hi pr f : Byte) (g : OrderTarget) (prof : Profile) (dir : Dir) (a : Asm) (c d : Chan) (k : OrderSlot)
    (s : State), s.quiet = true → s.ordering = true → p.toNat < 8 → f.toNat < 2 →
    orderTargetOf kd (un16 lo hi) = some g → profileOf pr = some prof →
    (g = .inn ∧ dir = .dirIn) ∨ (g = .out ∧ dir = .dirOut) → s.travels a = true → (s.asmCfg a).channels = [c, d] →
    c ≠ d → s.asmOf c = some a → s.asmOf d = some a → s.freePartySlot = some k → s.unclaimed [c, d] = true →
    (∀ x ∈ [c, d], s.drivable x = true ∧ s.blocked x dir = false ∧
      alreadyThere (s.cfg x) (s.chan x) g.goal = false) →
    (s.asmCfg a).skewTrim ≤ (s.asmCfg a).skewFault →
    ((s.chan c).positionKnown = true → (s.chan d).positionKnown = true →
      (Clause.skewOf (s.chan c) (s.chan d)).natAbs ≤ (s.asmCfg a).skewTrim) → ∃ t o,
      exec (.orderTravel p [BitVec.twoPow 8 a.val, kd, lo, hi, pr, 0#8, f]) s = .next t ∧
      Answers t .ok [s.orderHandle k] ∧ t.order k = some o ∧ o.state = .running ∧
      (∀ e ∈ o.entries, e.state = .moving) ∧ t.claims[c] = some k ∧ t.claims[d] = some k ∧ Clause.Measured t a c d ∧
      (t.asm a).paused = none ∧
      ∀ x ∈ [c, d], Drives (t.chan x) dir g.goal
        (if (s.chan c).positionKnown && (s.chan d).positionKnown then prof else .creep)

/-- R42, R43, R44, R45: a count of a channel of an engaged pair that goes on moving. The pair is measured. A skew above
skew_fault is a SKEW fault: engagement ends, FAULT is raised, the order and the monitor unit are told, and both channels are
cut. Otherwise a paused channel is resumed where its lead has gone, or the skew has come to half of skew_trim, or the other
has arrived; and with none paused and both driving, a skew above skew_trim pauses the leader. -/
def Clause.PairIsMeasured : Prop :=
  ∀ (a : Asm) (c d x : Chan) (k : OrderSlot) (s : State), s.quiet = true → Clause.Engaged s a c d k → x ∈ [c, d] →
    (s.chan x).state ≠ .idle → ∃ t, exec (.count x) s = .next t ∧ SameButChannel x s t ∧ t.claims = s.claims ∧
    t.orders = s.orders ∧
    ((t.chan x).state ≠ .idle → ((t.chan c).state.pursuing = true ∨ (t.chan d).state.pursuing = true) →
      let skew := (Clause.skewOf (t.chan c) (t.chan d)).natAbs
      let trim := (s.asmCfg a).skewTrim
      let drive := fun (y : Chan) => (t.chan y).state.driving = true
      ((s.asmCfg a).skewFault < skew →
        (t.asm a).engaged = false ∧ (t.asm a).basis = .none ∧ (t.asm a).leader = none ∧ (t.asm a).paused = none ∧
        (t.asm a).skew = Clause.skewOf (t.chan c) (t.chan d) ∧ t.flag .fault = true ∧
        Msg.skew a (s.orderHandle k) ∈ t.inFlight ∧
        (∀ y ∈ [c, d], (t.chan y).state ≠ .idle → Msg.cut y ∈ t.inFlight) ∧
        (Inv s → ∃ h z, t.hold h = some z ∧ z.cause = .fault ∧ z.subject = some a.val ∧ z.detail = some .skew ∧
          z.blocks = .both ∧ z.style = .cut)) ∧
      (skew ≤ (s.asmCfg a).skewFault → Clause.Measured t a c d ∧
        ((s.asm a).paused = none →
          (drive c → drive d → trim < skew → ∃ side, (t.asm a).leader = some side ∧ (t.asm a).paused = some side ∧
            Msg.pause (side.pick c d) ∈ t.inFlight) ∧
          (¬(drive c ∧ drive d ∧ trim < skew) → (t.asm a).paused = none)) ∧
        (∀ side, (s.asm a).paused = some side → (t.chan (side.pick c d)).state = .paused →
          let other := side.other c d
          let arrived := (t.chan other).state = .idle ∧ (t.chan other).lastReport = some .arrival
          let resumes := skew ≤ trim / 2 ∨ (t.asm a).leader ≠ some side ∨ arrived
          (¬resumes → (t.asm a).paused = some side) ∧
          (resumes → Msg.resume (side.pick c d) ∈ t.inFlight) ∧
          (resumes → trim < skew → drive other → (t.asm a).paused = (t.asm a).leader ∧ Msg.pause other ∈ t.inFlight) ∧
          (resumes → ¬(trim < skew ∧ drive other) → (t.asm a).paused = none))))

/-- R41, R44, R47: the other channel of a pair whose one channel is PAUSED arrives at its OUT end: the paused channel is
resumed, and the pair stays engaged with it; the last pursuing channel that is cut ends the engagement, and the skew is
kept. -/
def Clause.PairEnds : Prop :=
  ∀ (a : Asm) (c d : Chan) (k : OrderSlot) (s : State), s.quiet = true → Clause.Engaged s a c d k →
    (∀ side : Side, (s.asm a).paused = some side → (s.chan (side.pick c d)).state = .paused →
      let y := side.other c d
      (s.chan y).state.driving = true → (s.chan y).direction = .dirOut → (s.chan y).inActive = false →
      (s.chan y).outActive = false → ∃ t, exec (.outBecomesActive y) s = .next t ∧ CameToRest y .arrival s t (some .outEnd) ∧
        ((Clause.skewOf (t.chan c) (t.chan d)).natAbs ≤ (s.asmCfg a).skewFault →
          (s.chan c).positionKnown = true → (s.chan d).positionKnown = true →
          Clause.Measured t a c d ∧ (t.asm a).paused = none ∧ Msg.resume (side.pick c d) ∈ t.inFlight)) ∧
    (∀ x ∈ [c, d], (s.chan x).state ≠ .idle → (∀ y ∈ [c, d], y ≠ x → (s.chan y).state.pursuing = false) → ∃ t,
      exec (.cut x) s = .next t ∧ CameToRest x .halt s t ∧ (t.asm a).engaged = false ∧ (t.asm a).basis = .none ∧
      (t.asm a).leader = none ∧ (t.asm a).paused = none ∧ (t.asm a).skew = (s.asm a).skew)

/-- R39 to R47: twin sync: a pair engages, is measured, paused, resumed, faulted, and ends its engagement, by a cut
also where no block has sent it (DESIGN CHOICE, notes/assumptions/4.md). -/
def Obligations.TwinSync : Prop :=
  Clause.PairEngages ∧ Clause.PairIsMeasured ∧ Clause.PairEnds

/-! ## What the order engine takes -/

/-- R55, R107, R114: a wind retraction order that eases toward BLOCKED takes the report of its last MOVING entry, or a RUNNING
one without a MOVING entry takes a stop notice: it is BLOCKED again, every entry WAIT and its claims kept, and it is
reconsidered in the same action. Covered still, or with a channel claimed by another order, it stays so; with its awning
settled at AT_IN it ends DONE; otherwise its channel is driven IN again. A MONITOR order stands in slot 6 or 7 (R87, which
`StepKeepsInv` keeps as `OrderPlacement`). -/
def Clause.WindOrderReturns : Prop :=
  ∀ (i : Instr) (c : Chan) (k : OrderSlot) (o : Order) (a : Asm) (hd : Byte) (rest : List Msg) (s : State),
    s.quiet = true → k.val = hd.toNat % 8 → s.orders[k].gen = hd.toNat / 8 → s.order k = some o → 6 ≤ k.val →
    o.owner = .monitor → o.kind = .travel → o.profile = .ramped → o.targets = [{ asm := a, target := .inn }] →
    (∀ e ∈ o.entries, e.contact = false) →
    ((∃ r : Report, i = .channelReport c ∧ s.inFlight = .report r :: rest ∧ r.chan = c ∧ r.order = hd ∧
        s.succs[c] = none ∧ (∀ j, s.claims[c] = some j → j = k) ∧ o.state = .easing ∧ o.pending = some .toBlocked ∧
        ∀ e ∈ o.entries, e.chan ≠ c → e.state ≠ .moving) ∨
      (∃ n : StopNotice, i = .stopNotice k ∧ s.inFlight = .stop n :: rest ∧ n.order = hd ∧ o.state = .running ∧
        o.anyMoving = false)) →
    let free := ∀ e ∈ o.entries, (s.claims[e.chan] = none ∨ s.claims[e.chan] = some k) ∧
      s.blocked e.chan .dirIn = false
    let home := (s.asm a).settled = true ∧ (s.asm a).summary = .atIn
    ∃ t, exec i s = .next t ∧ t.setup = s.setup ∧ t.nv = s.nv ∧
      (¬free → t.claims = s.claims ∧ t.channels = s.channels ∧ t.inFlight = rest ∧ t.order k = some { o with
        state := .blocked, pending := none, entries := o.entries.map fun e => { e with state := .wait } }) ∧
      (free → home → Ended t k .done none ∧ t.channels = s.channels ∧
        ∀ u, t.order k = some u → ∀ e ∈ u.entries, e.claim = .held ∧ e.state = .arrived) ∧
      (∀ (e : Entry) (d : Chan), free → ¬home → o.entries = [e] → e.chan = d → e.direction = some .dirIn →
        e.goal = some .endIn → s.asmOf d = some a → (s.asmCfg a).channels = [d] → s.drivable d = true →
        alreadyThere (s.cfg d) (s.chan d) .endIn = false → t.claims[d] = some k ∧
        t.order k = some { o with
          state := .running, pending := none, entries := [{ e with claim := .held, state := .moving }] } ∧
        Drives (t.chan d) .dirIn .endIn (if (s.chan d).positionKnown then .ramped else .creep) ∧ SameButChannel d s t)

/-- R55, R98, R107, R108, R109: channel reports, SKEW reports and stop notices, at an order that passes no channel on. The
message taken is the oldest (notes/assumptions/4.md), and a wind order waits EASING for the reports of its MOVING channels, be
they IDLE already (notes/assumptions/18.md, DEDUCED). -/
def Clause.ReportsAreTaken : Prop :=
  ∀ (c : Chan) (a : Asm) (k : OrderSlot) (o : Order) (e : Entry) (hd : Byte) (rest : List Msg) (s : State),
    s.quiet = true → k.val = hd.toNat % 8 → s.orders[k].gen = hd.toNat / 8 → s.order k = some o →
    (∀ r : Report, s.inFlight = .report r :: rest → r.chan = c → r.order = hd → o.kind = .travel → o.entries = [e] →
      e.chan = c → e.contact = false → o.pending ≠ some .toBlocked →
      (∀ st re, o.pending = some (.final st re) → st.live = false) → s.succs[c] = none →
      (∀ j, s.claims[c] = some j → j = k) → ∃ t,
      exec (.channelReport c) s = .next t ∧ t.inFlight = rest ∧ t.channels = s.channels ∧ t.setup = s.setup ∧
      t.nv = s.nv ∧
      (o.state = .running → r.kind = .arrival → Ended t k .done none) ∧
      (o.state = .running → r.kind = .halt → t.order k = some { o with entries := [{ e with state := .halted }] }) ∧
      (∀ f, o.state = .running → r.kind = .fault f → Ended t k .failed (some f.reason)) ∧
      (∀ st re, o.state = .easing → o.pending = some (.final st re) → Ended t k st re)) ∧
    (s.inFlight = .skew a hd :: rest → ∃ t,
      exec (.skewReport a) s = .next t ∧ t.channels = s.channels ∧ t.setup = s.setup ∧ t.nv = s.nv ∧
      (o.state = .running → o.anyMoving = false → Ended t k .failed (some .skew)) ∧
      (o.state = .running → o.anyMoving = true → ∃ u, t.order k = some u ∧ u.state = .easing ∧
        u.pending = some (.final .failed (some .skew))) ∧
      (o.state ≠ .running → t = { s with inFlight := rest })) ∧
    (∀ n : StopNotice, s.inFlight = .stop n :: rest → n.order = hd → (o.owner = .monitor → o.anyMoving = true) → ∃ t,
      exec (.stopNotice k) s = .next t ∧ t.channels = s.channels ∧ t.setup = s.setup ∧ t.nv = s.nv ∧
      (∀ p, o.state = .running → o.owner = .party p → s.allIdle o = true → Ended t k .stopped (some .hold)) ∧
      (∀ p, o.state = .running → o.owner = .party p → s.allIdle o = false → ∃ u, t.order k = some u ∧
        u.state = .easing ∧ u.pending = some (.final .stopped (some .hold)) ∧
        ∀ m ∈ o.entries, m.state = .moving → m.chan ∉ n.commanded → Msg.ease m.chan ∈ t.inFlight) ∧
      (o.state = .running → o.owner = .monitor → ∃ u, t.order k = some u ∧ u.state = .easing ∧
        u.pending = some .toBlocked) ∧
      (o.state ≠ .running → t = { s with inFlight := rest })) ∧
    ((∀ r, Msg.report r ∈ s.inFlight → r.chan ≠ c) → exec (.channelReport c) s = .next s)

/-- R55, R98, R107, R108, R109, R114: channel reports, SKEW reports and stop notices, and the return of a wind order to
BLOCKED. The oldest message is taken (DEDUCED, notes/assumptions/4.md), and a wind order waits EASING for the reports of its
MOVING channels (DEDUCED, notes/assumptions/18.md). -/
def Obligations.Reports : Prop :=
  Clause.ReportsAreTaken ∧ Clause.WindOrderReturns

/-! ## The monitor unit -/

/-- R69, R72, R60, R61, R62: the ROAD hold is made, with ROAD_DEPLOYED where an assembly is out, and removed; the ESTOP hold
is made, marked PENDING_CLEAR, and re-asserted. The event of a line sets its raw pin (DESIGN CHOICE,
notes/assumptions/6.md). -/
def Obligations.RoadAndEstop : Prop :=
  ∀ (line : RoadLine) (b : Bool) (h : HoldSlot) (s : State), s.quiet = true →
    let road : Hold :=
      { owner := .monitor, cause := .road, subject := none, scope := 0xFF#8, blocks := .extend, style := .cut,
        latched := false, state := .active, expiry := none, detail := none }
    let estop : Hold := { road with cause := .estop, blocks := .both, latched := true }
    let s' := { s with pins := (match line with
      | .ign => { s.pins with ign := levelOf s.setup.lines.ign b }
      | .pbrk => { s.pins with pbrk := levelOf s.setup.lines.pbrk b }) }
    ((line = .ign ∧ b = true ∧ s.mon.ign.active = false ∧ s.mon.pbrk.active = true) ∨
        (line = .pbrk ∧ b = false ∧ s.mon.ign.active = false ∧ s.mon.pbrk.active = true) →
      s.monitorHold .road none = none → s.freeHoldSlot monitorHolds = some h → ∃ t,
        exec (.ignOrPbrkChange line b) s = .next t ∧ SameBody s' t ∧ t.hold h = some road ∧
        t.flag .holdRaised = true ∧ t.flag .roadDeployed = (s.flag .roadDeployed || s.deployed) ∧
        (t.mon.ign.active || !t.mon.pbrk.active) = true ∧
        (∀ (c : Chan) (a : Asm), s.asmOf c = some a → (s.chan c).direction = .dirOut → (s.chan c).state ≠ .idle →
          Msg.cut c ∈ t.inFlight)) ∧
    ((line = .ign ∧ b = false ∧ s.mon.ign.active = true ∧ s.mon.pbrk.active = true) ∨
        (line = .pbrk ∧ b = true ∧ s.mon.ign.active = false ∧ s.mon.pbrk.active = false) →
      ∀ x, Inv s → s.hold h = some x → x.cause = .road → x.owner = .monitor → ∃ t,
        exec (.ignOrPbrkChange line b) s = .next t ∧ SameBody s' t ∧
        t.holds = s.holds.set h { gen := (s.holds[h].gen + 1) % 8, hold := none }) ∧
    (s.mon.estp.active = false → s.monitorHold .estop none = none → s.freeHoldSlot monitorHolds = some h → ∃ t,
      exec (.estpChange true) s = .next t ∧ t.hold h = some estop ∧ t.flag .holdRaised = true ∧
      t.mon.estp.active = true ∧ t.channels = s.channels ∧ t.orders = s.orders ∧
      (∀ (c : Chan) (a : Asm), s.asmOf c = some a → (s.chan c).state ≠ .idle → Msg.cut c ∈ t.inFlight)) ∧
    (∀ x, Inv s → s.hold h = some x → x.cause = .estop → x.owner = .monitor →
      (s.mon.estp.active = true → x.state = .active → ∃ t,
        exec (.estpChange false) s = .next t ∧ t.hold h = some { x with state := .pendingClear } ∧
        t.flag .holdClearable = true ∧ t.channels = s.channels ∧ t.inFlight = s.inFlight) ∧
      (s.mon.estp.active = false → x.state = .pendingClear → x.scope = 0xFF#8 → ∃ t,
        exec (.estpChange true) s = .next t ∧ t.hold h = some { x with state := .active } ∧
        t.flag .holdRaised = true ∧ t.channels = s.channels ∧ t.inFlight = s.inFlight))

/-- R70, R71: the LOWV delay state: every transition of the table, the two delays, and the hold, which stands in HELD and in
OFF_DELAY and raises LOWV_SEEN as it is made. The expiries as commands act whatever time is left and do nothing elsewhere (notes/assumptions/3.md, DESIGN
CHOICE), and the pin takes the level of the input (notes/assumptions/6.md, DESIGN CHOICE). -/
def Obligations.LowvDelays : Prop :=
  ∀ s : State, s.quiet = true → Inv s →
    (∀ b : Bool, s.mon.lowv.active ≠ b → exec (.lowvChange b) s = .next { s with
      pins := { s.pins with lowv := levelOf s.setup.lines.lowv b },
      mon := { s.mon with
        lowv := { active := b, wait := none },
        lowvDelay := (match s.mon.lowvDelay, b with
          | .clear, true => .onDelay 500000
          | .onDelay _, false => .clear
          | .held, false => .offDelay 2000000
          | .offDelay _, true => .held
          | d, _ => d) } }) ∧
    ((∀ n, s.mon.lowvDelay ≠ .onDelay n) → exec .lowvOnDelayExpiry s = .next s) ∧
    ((∀ n, s.mon.lowvDelay ≠ .offDelay n) → exec .lowvOffDelayExpiry s = .next s) ∧
    (∀ n, s.mon.lowvDelay = .onDelay n → ∃ t,
      exec .lowvOnDelayExpiry s = .next t ∧ SameBody s t ∧ t.mon = { s.mon with lowvDelay := .held } ∧
      t.flag .lowvSeen = (s.flag .lowvSeen || (s.monitorHold .lowv none).isNone) ∧
      ∃ h x, t.hold h = some x ∧ x.cause = .lowv ∧ x.owner = .monitor ∧ x.scope = 0xFF#8 ∧ x.blocks = .both ∧
        x.style = .ease ∧ x.latched = false) ∧
    (∀ n, s.mon.lowvDelay = .offDelay n → ∃ t,
      exec .lowvOffDelayExpiry s = .next t ∧ SameBody s t ∧ t.mon = { s.mon with lowvDelay := .clear } ∧
      t.flag .lowvSeen = s.flag .lowvSeen ∧
      ∀ h x, t.hold h = some x → x.owner = .monitor → x.cause ≠ .lowv)

/-- R73 to R77, R113: a pulse, a window that trips nothing, a window that trips, and the end of the calm time. An expiry as a
command acts whatever time is left and changes nothing where no window or no calm timer runs (DESIGN CHOICE,
notes/assumptions/3.md). -/
def Obligations.WindLogic : Prop :=
  ∀ s : State, s.quiet = true →
    let w := s.setup.wind
    let speed := if 4095 ≤ s.mon.counter then 255 else min 255 (s.mon.counter * w.factor / w.window.divisor)
    let run := if w.retract ≤ speed then s.mon.run + 1 else 0
    exec .wndPulse s = .next { s with mon := { s.mon with counter := min 4095 (s.mon.counter + 1) } } ∧
    (s.mon.window = none → exec .windowExpiry s = .next s) ∧
    (s.mon.window ≠ none → run < w.tripWindows → ∃ t, exec .windowExpiry s = .next t ∧ SameBody s t ∧
      t.holds = s.holds ∧ t.inFlight = s.inFlight ∧
      t.mon = { s.mon with
        counter := 0, lastSpeed := speed, window := some w.window.length, run := run,
        calm := if s.mon.tripped ∧ w.caution ≤ speed then some 0 else s.mon.calm } ∧
      t.flag .windCaution = (s.flag .windCaution || decide (w.caution ≤ speed ∧ s.mon.lastSpeed < w.caution))) ∧
    (s.mon.window ≠ none → w.tripWindows ≤ run → ∃ t, exec .windowExpiry s = .next t ∧ t.mon.counter = 0 ∧
      t.mon.lastSpeed = speed ∧ t.mon.run = 0 ∧ t.mon.tripped = true ∧ t.mon.calm = some 0 ∧ t.setup = s.setup ∧
      (Inv s → s.windScope ≠ 0#8 → ∃ h x, t.hold h = some x ∧ x.cause = .wind ∧ x.scope = s.windScope) ∧
      (s.awningsOut = [] → SameBody s t) ∧
      (∀ (a : Asm) (c : Chan) (j : OrderSlot), s.awningsOut = [a] → s.windOrdered a = false → s.order 6 = none →
        c ∈ (s.asmCfg a).channels → s.claims[c] = some j → j ≠ 6 → ∃ u,
        t.order 6 = some u ∧ u.owner = .monitor ∧ u.kind = .travel ∧ u.state = .blocked ∧
        u.mask = BitVec.twoPow 8 a.val ∧ u.targets = [{ asm := a, target := .inn }] ∧ u.profile = .ramped ∧
        (∀ m ∈ u.entries, m.state = .wait) ∧ t.claims = s.claims ∧ SameMotion s t)) ∧
    (s.mon.calm = none → exec .calmTimerExpiry s = .next s) ∧
    (s.mon.calm ≠ none → ∃ t, exec .calmTimerExpiry s = .next t ∧ SameBody s t ∧
      t.mon = { s.mon with tripped := false, calm := none } ∧
      (Inv s → ∀ h x, t.hold h = some x → x.owner = .monitor → x.cause ≠ .wind))

/-- R56, R114: a BLOCKED wind retraction order is reconsidered, here when a hold expires. With its channel claimed by
another order, or its coverage BLOCKED still, it stays; with an awning settled at AT_IN it ends DONE, its entries ARRIVED;
otherwise it claims its channel and drives it IN, RAMPED where its position is known. -/
def Clause.WindOrderReconsidered : Prop :=
  ∀ (h : HoldSlot) (x : Hold) (k : OrderSlot) (o : Order) (e : Entry) (a : Asm) (c : Chan) (s : State),
    s.taking = true → 20 ≤ h.val → s.hold h = some x → x.expiry.isSome = true → 6 ≤ k.val → s.order k = some o →
    (∀ j u, s.order j = some u → u.state = .blocked → j = k) → o.state = .blocked → o.owner = .monitor →
    o.kind = .travel → o.profile = .ramped → o.targets = [{ asm := a, target := .inn }] → o.entries = [e] → e.chan = c →
    e.state = .wait → e.direction = some .dirIn → e.goal = some .endIn → s.asmOf c = some a →
    (s.asmCfg a).channels = [c] →
    let covered := ∃ j y, j ≠ h ∧ s.hold j = some y ∧ y.scope.getLsbD a.val = true ∧
      (y.blocks = .retract ∨ y.blocks = .both)
    ∃ t, exec (.holdExpiry h) s = .next t ∧ t.hold h = none ∧
      ((s.claims[c] ≠ none ∧ s.claims[c] ≠ some k) ∨ covered →
        t.orders = s.orders ∧ t.claims = s.claims ∧ t.channels = s.channels) ∧
      (s.claims[c] = none ∨ s.claims[c] = some k → ¬covered →
        ((s.asm a).settled = true → (s.asm a).summary = .atIn → Ended t k .done none ∧ t.channels = s.channels ∧
          ∀ u, t.order k = some u → ∀ m ∈ u.entries, m.claim = .held ∧ m.state = .arrived) ∧
        ((s.asm a).settled = false ∨ (s.asm a).summary ≠ .atIn → s.drivable c = true →
          alreadyThere (s.cfg c) (s.chan c) .endIn = false → t.claims[c] = some k ∧
          t.order k = some { o with state := .running, entries := [{ e with claim := .held, state := .moving }] } ∧
          Drives (t.chan c) .dirIn .endIn (if (s.chan c).positionKnown then .ramped else .creep) ∧ SameButChannel c s t))

/-- R75, R77, R113, R114: a trip that finds an awning out, unclaimed and not covered against IN makes its wind retraction
order and starts it in the same action. -/
def Clause.WindOrderStartsAtOnce : Prop :=
  ∀ (a : Asm) (c : Chan) (s : State), s.quiet = true → Inv s → s.mon.window ≠ none →
    let w := s.setup.wind
    let speed := if 4095 ≤ s.mon.counter then 255 else min 255 (s.mon.counter * w.factor / w.window.divisor)
    w.tripWindows ≤ (if w.retract ≤ speed then s.mon.run + 1 else 0) → s.awningsOut = [a] → s.windOrdered a = false →
    s.order 6 = none → (s.asmCfg a).channels = [c] → s.asmOf c = some a → s.claims[c] = none →
    s.blocked c .dirIn = false →
    s.drivable c = true → alreadyThere (s.cfg c) (s.chan c) .endIn = false → ∃ t u, exec .windowExpiry s = .next t ∧
      t.order 6 = some u ∧ u.owner = .monitor ∧ u.kind = .travel ∧ u.state = .running ∧
      u.mask = BitVec.twoPow 8 a.val ∧ u.targets = [{ asm := a, target := .inn }] ∧ u.profile = .ramped ∧
      u.entries.map (fun e => (e.chan, e.claim, e.state)) = [(c, .held, .moving)] ∧ t.claims[c] = some 6 ∧
      Drives (t.chan c) .dirIn .endIn (if (s.chan c).positionKnown then .ramped else .creep) ∧ SameButChannel c s t

/-- R56, R75, R77, R113, R114: a wind retraction order that finds its channel free is started or ends DONE, and a BLOCKED one
is reconsidered. The expiries that bring this about are commands, and act whatever time is left (DESIGN CHOICE,
notes/assumptions/3.md). -/
def Obligations.WindOrders : Prop :=
  Clause.WindOrderReconsidered ∧ Clause.WindOrderStartsAtOnce

/-! ## The tilt meter and the leveller -/

/-- R135: the reading of a period, 3750 times its high time over the period less 1875, rounded toward zero, valid for a
duty of 10 % to 90 % and a period of 1 ms to 50 ms; an invalid one is discarded. R136: a valid one joins its axis's list, and
an axis timer that expires empties it, as a command whatever time is left (DESIGN CHOICE, notes/assumptions/3.md). Both
times are in microseconds (DEDUCED, notes/assumptions/22.md). -/
def Obligations.TiltReadings : Prop :=
  ∀ (high period : Nat) (s : State), s.taking = true →
    let valid := (1000 ≤ period ∧ period ≤ 50000) ∧ period ≤ 10 * high ∧ 10 * high ≤ 9 * period
    let r : Int := Int.tdiv (3750 * (high : Int) - 1875 * (period : Int)) period
    let takes := fun (x y : Axis) =>
      y.valid = true ∧ y.timer = some 100000 ∧ y.readings.getLast? = some r ∧
      (x.valid = true → x.readings.length < 4 → y.readings = x.readings ++ [r]) ∧
      (x.valid = true → x.readings.length = 4 → y.readings = x.readings.drop 1 ++ [r]) ∧
      (x.valid = false → y.readings = [r])
    (∀ axis, ¬valid → exec (.tiltReading axis high period) s = .next s) ∧
    (valid → ∃ t, exec (.tiltReading .pitch high period) s = .next t ∧ takes s.tilt.pitch t.tilt.pitch ∧
      t.tilt.roll = s.tilt.roll ∧ t.setup = s.setup ∧
      (s.lev.solveTimer = none → t = { s with
        tilt := t.tilt, lev := { s.lev with freshPitch := s.lev.freshPitch + 1 } })) ∧
    (valid → ∃ t, exec (.tiltReading .roll high period) s = .next t ∧ takes s.tilt.roll t.tilt.roll ∧
      t.tilt.pitch = s.tilt.pitch ∧ t.setup = s.setup ∧
      (s.lev.solveTimer = none → t = { s with
        tilt := t.tilt, lev := { s.lev with freshRoll := s.lev.freshRoll + 1 } })) ∧
    (s.tilt.pitch.timer ≠ none → ∃ t, exec (.axisTimerExpiry .pitch) s = .next t ∧
      t.tilt = { s.tilt with pitch := { valid := false, readings := [], timer := none } } ∧ t.setup = s.setup) ∧
    (s.tilt.roll.timer ≠ none → ∃ t, exec (.axisTimerExpiry .roll) s = .next t ∧
      t.tilt = { s.tilt with roll := { valid := false, readings := [], timer := none } } ∧ t.setup = s.setup)

/-- R132, R141, R142, R144: a SOLVE that runs out of time or loses either axis fails NO_TILT; one whose fourth fresh reading
finds both means within tolerance ends DONE and sets the stance; a SETTLE that expires goes on to the next pass, or fails
NOT_LEVEL after the last. An expiry as a command acts whatever time is left and changes nothing where its timer does not run
(DESIGN CHOICE, notes/assumptions/3.md). -/
def Obligations.SolveAndSettle : Prop :=
  ∀ (k : OrderSlot) (o : Order) (s : State), s.quiet = true → s.order k = some o →
    (s.lev.solveTimer = none → exec .solveTimerExpiry s = .next s) ∧
    (s.lev.settleTimer = none → exec .settleTimerExpiry s = .next s) ∧
    (s.solving = some k → s.lev.solveTimer ≠ none → ∃ t, exec .solveTimerExpiry s = .next t ∧
      Ended t k .failed (some .noTilt) ∧ t.lev.solveTimer = none ∧ SameMotion s t) ∧
    (∀ axis : TiltAxis, s.solving = some k → (match axis with
        | .pitch => s.tilt.pitch.timer
        | .roll => s.tilt.roll.timer) ≠ none → ∃ t, exec (.axisTimerExpiry axis) s = .next t ∧
      Ended t k .failed (some .noTilt) ∧ t.lev.solveTimer = none ∧ t.channels = s.channels) ∧
    (∀ (high period : Nat) (p q : Int), s.solving = some k → s.lev.solveTimer ≠ none →
      tiltValid high period = true → (s.tilt.pitch.take (tiltOf high period)).mean = some p → s.tilt.roll.mean = some q →
      3 ≤ s.lev.freshPitch → 4 ≤ s.lev.freshRoll → p.natAbs ≤ s.setup.leveller.tolerance →
      q.natAbs ≤ s.setup.leveller.tolerance → ∃ t, exec (.tiltReading .pitch high period) s = .next t ∧
      Ended t k .done none ∧ t.lev.stance = .set ∧ t.lev.residualPitch = p ∧ t.lev.residualRoll = q ∧
      t.lev.solveTimer = none ∧ t.channels = s.channels) ∧
    (s.lev.settleTimer ≠ none → s.inStage k .settle = true → (∀ j, s.inStage j .settle = true → j = k) →
      o.recallAhead = false →
      (s.setup.leveller.maxPasses ≤ o.pass → ∃ t, exec .settleTimerExpiry s = .next t ∧
        Ended t k .failed (some .notLevel) ∧ SameMotion s t) ∧
      (o.pass < s.setup.leveller.maxPasses → s.tilt.valid = true → ∃ t, exec .settleTimerExpiry s = .next t ∧
        t.order k = some { o with pass := o.pass + 1, stage := .solve } ∧
        t.lev = { s.lev with freshPitch := 0, freshRoll := 0, solveTimer := some 400000, settleTimer := none } ∧
        SameMotion s t) ∧
      (o.pass < s.setup.leveller.maxPasses → s.tilt.valid = false → ∃ t, exec .settleTimerExpiry s = .next t ∧
        Ended t k .failed (some .noTilt) ∧ SameMotion s t))

/-- R141, R142, R150: a reading of either axis that brings both fresh counts to four, with the means it gives. -/
def Clause.Decides (i : Instr) (p q : Int) (s : State) : Prop :=
  s.lev.solveTimer ≠ none ∧
  ((∃ high period, i = .tiltReading .pitch high period ∧ tiltValid high period = true ∧
      (s.tilt.pitch.take (tiltOf high period)).mean = some p ∧ s.tilt.roll.mean = some q ∧
      3 ≤ s.lev.freshPitch ∧ 4 ≤ s.lev.freshRoll) ∨
    (∃ high period, i = .tiltReading .roll high period ∧ tiltValid high period = true ∧
      s.tilt.pitch.mean = some p ∧ (s.tilt.roll.take (tiltOf high period)).mean = some q ∧
      4 ≤ s.lev.freshPitch ∧ 3 ≤ s.lev.freshRoll))

/-- R142, R143, R150: the SOLVE decision, from the mean pitch `p` and the mean roll `q`. Within tolerance the order ends DONE
and the stance is SET, with the residual written. Otherwise a stance recall in its first SOLVE ends NOT_LEVEL without TRIM
or with max_passes 1, and goes on with pass 2 else. The lifts are the corrections less the least of them, 0 below deadband.
Every lift 0 ends the order NOT_LEVEL; a jack that would leave its span ends it OUT_OF_STROKE; a blocked stance ends it
STOPPED without motion; else LIFT drives each jack with a lift OUT to its place at RUN, and the others stand ARRIVED. -/
def Obligations.LiftDecision : Prop :=
  ∀ (i : Instr) (p q : Int) (k : OrderSlot) (o : Order) (n : Nat) (a : Asm) (s : State), s.quiet = true →
    Clause.Decides i p q s → s.solving = some k → s.order k = some o → o.owner = .party n → o.entries ≠ [] →
    (∀ e ∈ o.entries, e.claim = .held ∧ s.asmOf e.chan = some a) → (s.asmCfg a).kind = .stance →
    let l := s.setup.leveller
    let within := p.natAbs ≤ l.tolerance ∧ q.natAbs ≤ l.tolerance
    let trims := (∃ x, o.image = some x ∧ x.trim = true) ∧ 2 ≤ l.maxPasses
    let corr := fun (c : Chan) => ((s.cfg c).kPitch * p + (s.cfg c).kRoll * q).tdiv 256
    ∃ t, exec i s = .next t ∧ t.lev.solveTimer = none ∧ t.setup = s.setup ∧
    (within → Ended t k .done none ∧ t.lev.stance = .set ∧ t.lev.residualPitch = p ∧ t.lev.residualRoll = q ∧
      t.channels = s.channels) ∧
    (¬within → o.recallAhead = true → ¬trims → Ended t k .failed (some .notLevel) ∧ t.channels = s.channels) ∧
    (¬within → (o.recallAhead = false ∨ trims) → ∀ m : Int, (∃ e ∈ o.entries, corr e.chan = m) →
      (∀ e ∈ o.entries, m ≤ corr e.chan) →
      let lift := fun (c : Chan) => if corr c - m < l.deadband then 0 else corr c - m
      let fits := ∀ e ∈ o.entries, (s.chan e.chan).positionKnown = true ∧
        ((s.chan e.chan).position : Int) + lift e.chan ≤ (s.cfg e.chan).span
      let lifted := ∀ u, t.order k = some u →
        u.entries.map (fun e => (e.chan, e.lift)) = o.entries.map (fun e => (e.chan, lift e.chan)) ∧
        u.pass = (if o.recallAhead then 2 else o.pass) ∧ u.recallAhead = false
      lifted ∧
      ((∀ e ∈ o.entries, lift e.chan = 0) → Ended t k .failed (some .notLevel) ∧ t.channels = s.channels) ∧
      ((∃ e ∈ o.entries, lift e.chan ≠ 0) →
        (¬fits → Ended t k .failed (some .outOfStroke) ∧ t.channels = s.channels) ∧
        (fits → (∃ e ∈ o.entries, lift e.chan ≠ 0 ∧ s.blocked e.chan .dirOut = true) →
          Ended t k .stopped (some .hold) ∧ t.channels = s.channels) ∧
        (fits → (∀ e ∈ o.entries, lift e.chan ≠ 0 → s.blocked e.chan .dirOut = false ∧ s.drivable e.chan = true) →
          (∃ u, t.order k = some u ∧ u.state = .running ∧ u.stage = .lift ∧
            u.entries.map (·.state) = o.entries.map (fun e => if lift e.chan = 0 then .arrived else .moving)) ∧
          (∀ e ∈ o.entries, lift e.chan = 0 → t.chan e.chan = s.chan e.chan) ∧
          ∀ e ∈ o.entries, lift e.chan ≠ 0 →
            Drives (t.chan e.chan) .dirOut (.at (((s.chan e.chan).position : Int) + lift e.chan).toNat) .run)))

/-- R134, R140, R145: contact, its loss and the limit of REACH. A MOVING jack that finds contact writes contact_pos and is
cut, and the halt it reports is ARRIVED; one that travels max_reach without contact is cut, and one that arrives at its OUT
end without contact has arrived: both fail the order NO_GROUND. A jack that loses contact fails the order LOST_CONTACT, at
once in SOLVE and SETTLE, with a FAULT hold in LIFT, and not at all while it still moves in REACH without having had any. One
still MOVING whose contact cut is under way has had it (notes/assumptions/26.md, DEDUCED). -/
def Clause.ReachAndContact : Prop :=
  ∀ (c : Chan) (k : OrderSlot) (o : Order) (a : Asm) (s : State), s.quiet = true → s.order k = some o →
    s.stagedSlot = some k → s.stanceAsm = some a → s.asmOf c = some a →
    let failing := fun (t : State) (r : Reason) => ∃ u, t.order k = some u ∧ u.state = .easing ∧
      u.pending = some (.final .failed (some r)) ∧ t.claims = s.claims
    let seeks := o.stage = .reach ∧ ∃ e ∈ o.entries, e.chan = c ∧ e.state = .moving
    (seeks → (s.chan c).auxActive = false → ∃ t, exec (.auxChange c true) s = .next t ∧ Msg.cut c ∈ t.inFlight ∧
      t.channels = s.channels.set c { s.chan c with
        auxActive := true, auxWait := none,
        contactPos := if (s.chan c).positionKnown then some (s.chan c).position else (s.chan c).contactPos } ∧
      t.order k = some { o with entries := o.entries.map fun e => if e.chan = c then { e with contact := true } else e }) ∧
    (o.stage = .reach → (∃ e ∈ o.entries, e.chan = c ∧ e.state = .moving ∧ e.contact = false) →
      (s.chan c).state ≠ .idle → (s.chan c).auxActive = false → (s.chan c).travelled < 65535 →
      (s.cfg c).maxReach ≤ (s.chan c).travelled + 1 → ∃ t, exec (.count c) s = .next t ∧ failing t .noGround ∧
      Msg.cut c ∈ t.inFlight ∧ SameButChannel c s t ∧
      ∀ e ∈ o.entries, e.chan ≠ c → e.state = .moving → Msg.ease e.chan ∈ t.inFlight) ∧
    ((s.chan c).auxActive = true → (∃ e ∈ o.entries, e.chan = c) → ∃ t, exec (.auxChange c false) s = .next t ∧
      t.channels = s.channels.set c { s.chan c with auxActive := false, auxWait := none } ∧
      (o.stage = .reach → (∃ e ∈ o.entries, e.chan = c ∧ (e.state = .arrived ∨ e.contact = true)) →
        (o.anyMoving = true → failing t .lostContact ∧
          ∀ e ∈ o.entries, e.state = .moving → Msg.ease e.chan ∈ t.inFlight) ∧
        (o.anyMoving = false → Ended t k .failed (some .lostContact))) ∧
      (o.stage = .reach → (∀ e ∈ o.entries, e.chan = c → e.state ≠ .arrived ∧ e.contact = false) →
        t.order k = some o) ∧
      (o.stage = .solve ∨ o.stage = .settle → Ended t k .failed (some .lostContact) ∧ t.lev.solveTimer = none ∧
        t.lev.settleTimer = none) ∧
      (o.stage = .lift → o.anyMoving = true → failing t .lostContact ∧
        (∀ e ∈ o.entries, e.state = .moving → Msg.ease e.chan ∈ t.inFlight) ∧
        (Inv s → s.faultStands a = false → ∃ h x, t.hold h = some x ∧ x.cause = .fault ∧ x.subject = some a.val ∧
          x.detail = some .lostContact ∧ x.state = .pendingClear ∧ x.blocks = .both)))

/-- R98, R140, R141: a report taken in REACH. A halt at contact is ARRIVED; an arrival without contact fails the order
NO_GROUND; the report that leaves every entry ARRIVED ends REACH, and SOLVE begins with its timer of 400 ms and both fresh
counts 0, or fails NO_TILT. -/
def Clause.ReachEnds : Prop :=
  ∀ (r : Report) (rest : List Msg) (c : Chan) (k : OrderSlot) (o : Order) (s : State), s.quiet = true →
    s.inFlight = .report r :: rest → r.chan = c → k.val = r.order.toNat % 8 → s.orders[k].gen = r.order.toNat / 8 →
    s.order k = some o → o.kind = .level → o.state = .running → o.stage = .reach → o.recallAhead = false →
    s.claims[c] = some k → s.succs[c] = none → (∀ j, s.inStage j .reach = true → j = k) →
    (∃ e ∈ o.entries, e.chan = c ∧ e.state = .moving) →
    let arrived := { o with entries := o.entries.map fun e =>
      if e.chan = c then { e with state := .arrived, contact := false } else e }
    let others := ∀ e ∈ o.entries, e.chan ≠ c → e.state = .arrived
    let contact := (r.kind = .halt ∧ ∀ e ∈ o.entries, e.chan = c → e.contact = true) ∨
      (r.kind = .arrival ∧ (s.chan c).auxActive = true)
    ∃ t, exec (.channelReport c) s = .next t ∧ t.channels = s.channels ∧ t.setup = s.setup ∧
      (contact → ¬others → t.order k = some arrived ∧ t.lev = s.lev) ∧
      (contact → others → s.tilt.valid = true → t.order k = some { arrived with stage := .solve } ∧
        t.lev = { s.lev with freshPitch := 0, freshRoll := 0, solveTimer := some 400000 }) ∧
      (contact → others → s.tilt.valid = false → Ended t k .failed (some .noTilt)) ∧
      (r.kind = .arrival → (s.chan c).auxActive = false →
        ((∃ e ∈ o.entries, e.chan ≠ c ∧ e.state = .moving) → ∃ u, t.order k = some u ∧ u.state = .easing ∧
          u.pending = some (.final .failed (some .noGround)) ∧
          ∀ e ∈ o.entries, e.chan ≠ c → e.state = .moving → Msg.ease e.chan ∈ t.inFlight) ∧
        ((∀ e ∈ o.entries, e.chan ≠ c → e.state ≠ .moving) → Ended t k .failed (some .noGround)))

/-- R98, R134, R140, R141, R145: REACH, contact, and the loss of contact by stage, which a jack whose contact cut is under way
takes as one that has ARRIVED (DEDUCED, notes/assumptions/26.md). -/
def Obligations.ReachAndContact : Prop :=
  Clause.ReachAndContact ∧ Clause.ReachEnds

/-- R149, R150: the recall LIFT, begun by the report that ends REACH: each jack's target is its contact_pos plus its stored
extension. A jack without one within its span ends the order OUT_OF_STROKE, in the stage LIFT; a jack at its target stands
ARRIVED, the others are driven to it at RUN, OUT or IN; every jack at its target goes to SETTLE; a blocked direction ends it STOPPED without
motion. The SETTLE after it goes to SOLVE with the pass as it stands, its timer's expiry being a command that acts whatever
time is left (DESIGN CHOICE, notes/assumptions/3.md). -/
def Obligations.RecallLift : Prop :=
  ∀ (k : OrderSlot) (o : Order) (x : StanceImage) (n : Nat) (a : Asm) (s : State), s.quiet = true →
    s.order k = some o → o.kind = .recall → o.profileKind = some .stance → o.owner = .party n → o.state = .running →
    o.recallAhead = true → o.image = some x →
    (∀ e ∈ o.entries, e.claim = .held ∧ s.asmOf e.chan = some a) → (s.asmCfg a).kind = .stance →
    let goal := fun (c : Chan) => (s.chan c).contactPos.getD 0 + (x.extensions.lookup c).getD 0
    let ready := ∀ e ∈ o.entries, (s.chan e.chan).positionKnown = true ∧ (s.chan e.chan).contactPos ≠ none ∧
      x.extensions.lookup e.chan ≠ none ∧ goal e.chan ≤ (s.cfg e.chan).span
    let way := fun (c : Chan) => if (s.chan c).position < goal c then Dir.dirOut else .dirIn
    let away := fun (c : Chan) => (s.chan c).position ≠ goal c
    (∀ (r : Report) (rest : List Msg), s.inFlight = .report r :: rest → r.kind = .halt → k.val = r.order.toNat % 8 →
      s.orders[k].gen = r.order.toNat / 8 → o.stage = .reach → (∀ j, s.inStage j .reach = true → j = k) →
      s.claims[r.chan] = some k → s.succs[r.chan] = none →
      (∃ e ∈ o.entries, e.chan = r.chan) → (∀ e ∈ o.entries, e.chan = r.chan → e.contact = true) →
      (∀ e ∈ o.entries, e.chan ≠ r.chan → e.state = .arrived) → ∃ t, exec (.channelReport r.chan) s = .next t ∧
      (¬ready → Ended t k .failed (some .outOfStroke) ∧ t.channels = s.channels ∧
        ∀ u, t.order k = some u → u.stage = .lift ∧ u.pass = o.pass) ∧
      (ready → (∃ e ∈ o.entries, away e.chan ∧ s.blocked e.chan (way e.chan) = true) →
        Ended t k .stopped (some .hold) ∧ t.channels = s.channels) ∧
      (ready → (∀ e ∈ o.entries, ¬away e.chan) → t.channels = s.channels ∧
        t.lev = { s.lev with settleTimer := some (s.setup.leveller.settle * 1000) } ∧
        ∃ u, t.order k = some u ∧ u.state = .running ∧ u.stage = .settle ∧ u.allArrived = true) ∧
      (ready → (∃ e ∈ o.entries, away e.chan) →
        (∀ e ∈ o.entries, away e.chan → s.blocked e.chan (way e.chan) = false ∧ s.drivable e.chan = true) →
        (∃ u, t.order k = some u ∧ u.state = .running ∧ u.stage = .lift ∧ u.pass = o.pass ∧
          u.entries.map (fun e => (e.chan, e.state, e.lift)) = o.entries.map (fun e =>
            (e.chan, if away e.chan then .moving else .arrived, (goal e.chan : Int) - (s.chan e.chan).position))) ∧
        (∀ e ∈ o.entries, ¬away e.chan → t.chan e.chan = s.chan e.chan) ∧
        ∀ e ∈ o.entries, away e.chan → Drives (t.chan e.chan) (way e.chan) (.at (goal e.chan)) .run)) ∧
    (s.lev.settleTimer ≠ none → o.stage = .settle → (∀ j, s.inStage j .settle = true → j = k) →
      s.tilt.valid = true → ∃ t, exec .settleTimerExpiry s = .next t ∧ t.order k = some { o with stage := .solve } ∧
      t.lev = { s.lev with freshPitch := 0, freshRoll := 0, solveTimer := some 400000, settleTimer := none } ∧
      SameMotion s t)

/-! ## Supply, reset and start-up -/

/-- R154, R174, R197, R198: a power-on loads the setup area or the defaults, raising SETUP_LOST, and scans the directory;
RST low keeps the working setup and clears every live record; RST high scans again; a power loss leaves the array. The
waiting commands outlive a reset, and the events of supply and RST that change nothing act as notes/assumptions/9.md says
(DEDUCED and DESIGN CHOICE); the values of a cleared record that mean nothing are those of notes/assumptions/8.md (DESIGN
CHOICE), and a changed end_tolerance that waits for a start is in force from an RST reset on (notes/assumptions/71.md,
DESIGN CHOICE). -/
def Obligations.PowerAndReset : Prop :=
  ∀ s : State,
    let array := fun t : State => t.nv.marks = s.nv.marks ∧ (s.store.op = none → t.nv = s.nv)
    (s.sys.rstLow = false → ∃ t, exec .powerOn s = .next t ∧ Fresh t ∧ array t ∧ t.sys.supply = true ∧
      t.sys.status = .loading ∧ t.sys.startUp = .step3 ∧ t.setup = (areaSetup t.nv).getD Setup.default ∧
      t.sys.nextStatus = (if (areaSetup t.nv).isSome then .configured else .unconfigured) ∧
      t.flag .setupLost = (areaSetup t.nv).isNone ∧ t.pending = s.pending ∧
      (∀ p : ProfileSlot, t.store.directory[p] = scanSlot t.nv p) ∧
      (∀ c : Chan, (t.chan c).dirHigh = (t.cfg c).dirInvert)) ∧
    (∃ t, exec .powerLoss s = .next t ∧ Fresh t ∧ array t ∧ t.sys.supply = false ∧ t.atnLow = false ∧
      t.pending = s.pending) ∧
    (s.sys.supply = true → ∃ t, exec .rstAssert s = .next t ∧ Fresh t ∧ array t ∧ t.setup = s.setup ∧
      t.sys.rstLow = true ∧ t.sys.supply = true ∧ t.sys.status = .loading ∧ t.atnLow = false ∧ t.port.word = 0#16 ∧
      t.sys.nextStatus = (if s.sys.status = .loading then s.sys.nextStatus else s.sys.status) ∧
      t.pending = s.pending ∧ ∀ c : Chan, (t.chan c).dirHigh = (t.cfg c).dirInvert) ∧
    (s.sys.supply = false → exec .rstAssert s = .next { s with sys := { s.sys with rstLow := true } }) ∧
    (s.sys.rstLow = false → exec .rstRelease s = .next s) ∧
    (s.sys.rstLow = true → s.sys.supply = true → s.sys.startUp = .step2 → ∃ t, exec .rstRelease s = .next t ∧
      t.sys = { s.sys with rstLow := false, startUp := .step3 } ∧ t.setup = s.setup ∧ t.nv = s.nv ∧
      t.channels = s.channels ∧ ∀ p : ProfileSlot, t.store.directory[p] = scanSlot s.nv p)

/-- R27, R68, R86, R152, R197: READY: the levels are read under the polarities of the working setup, an end that stands
alone sets the position, a channel with TRP active records TRIP, the setup status is taken, and no order exists. A part that is
not LOADING is past READY (notes/assumptions/5.md, DESIGN CHOICE), the pins are what READY carries (notes/assumptions/6.md,
DESIGN CHOICE), and TRIP is the last fault where TRP and both ends are active (notes/assumptions/32.md, DESIGN CHOICE). -/
def Clause.ReadyReadsTheInputs : Prop :=
  ∀ (pins : Pins) (s : State), s.awake = true →
    (s.sys.status ≠ .loading → exec (.ready pins) s = .next s) ∧
    (s.sys.status = .loading → Fresh s → s.sys.startUp = .step3 → ∃ t, exec (.ready pins) s = .next t ∧
      t.sys = { s.sys with status := s.sys.nextStatus, startUp := .done } ∧ t.setup = s.setup ∧ t.nv = s.nv ∧
      t.orders = s.orders ∧ t.claims = s.claims ∧ t.store = s.store ∧ t.pins = pins ∧ t.lev.stance ≠ .set ∧
      t.port.rlsHigh = pins.rls ∧ t.pending = s.pending ∧
      t.mon.ign.active = activeOf s.setup.lines.ign pins.ign ∧ t.mon.pbrk.active = activeOf s.setup.lines.pbrk pins.pbrk ∧
      t.mon.estp.active = activeOf s.setup.lines.estp pins.estp ∧
      t.mon.lowvDelay = (if activeOf s.setup.lines.lowv pins.lowv then .onDelay 500000 else .clear) ∧
      t.mon.window = some s.setup.wind.window.length ∧
      ∀ c : Chan,
        let i := activeOf (s.cfg c).eniLevel pins.chan[c].eni
        let o := activeOf (s.cfg c).enoLevel pins.chan[c].eno
        let trip := activeOf (s.cfg c).trpLevel pins.chan[c].trp
        (t.chan c).inActive = i ∧ (t.chan c).outActive = o ∧ (t.chan c).trpActive = trip ∧
        (t.chan c).auxActive = activeOf (s.cfg c).auxLevel pins.chan[c].aux ∧ (t.chan c).state = .idle ∧
        (t.chan c).positionKnown = (i != o) ∧ (i = true → o = false → (t.chan c).position = 0) ∧
        (o = true → i = false → (t.chan c).position = (s.cfg c).span) ∧
        (t.chan c).lastFault = (if trip then some .trip else if i && o then some .sensorConflict else none) ∧
        ((t.chan c).lastFault ≠ none → t.flag .fault = true))

/-- R69, R72, R79, R80, R82, R84, R86: the holds of start-up step 4, by the inputs, summaries and stance of step 3: ROAD, which
raises ROAD_DEPLOYED where an assembly is out, ESTOP, UNSET, SLIDES_OUT, SWEEP of a live pair, and FAULT of an assembly with
TRP or both ends of a member active; each stands ACTIVE with its scope, or not at all. No other hold stands, no generation
has been stepped, and nothing is sent. -/
def Clause.HoldsAtReady : Prop :=
  ∀ (pins : Pins) (s : State), s.awake = true → s.sys.status = .loading → Fresh s → s.sys.startUp = .step3 → ∃ t,
    exec (.ready pins) s = .next t ∧
    let made := fun (cause : Cause) (subject : Option Nat) (blocks : Blocks) (style : Style) (latched : Bool)
        (detail : Option FaultKind) (covers : Asm → Prop) =>
      ∃ h x, t.hold h = some x ∧ x.owner = .monitor ∧ x.cause = cause ∧ x.subject = subject ∧ x.blocks = blocks ∧
        x.style = style ∧ x.latched = latched ∧ x.state = .active ∧ x.expiry = none ∧ x.detail = detail ∧
        ∀ a : Asm, x.scope.getLsbD a.val = true ↔ covers a
    let absent := fun (cause : Cause) (subject : Option Nat) =>
      ∀ h x, t.hold h = some x → x.cause = cause → x.subject ≠ subject
    let home := fun (a : Asm) => (t.asm a).settled = true ∧ (t.asm a).summary = .atIn
    let needs := fun (a : Asm) => (s.asmCfg a).kind = .slide ∧ (s.asmCfg a).needsStance = true
    let road := t.mon.ign.active = true ∨ t.mon.pbrk.active = false
    let out := ∃ a : Asm, (s.asmCfg a).kind ≠ .none ∧ ¬home a
    let trip := fun (a : Asm) => ∃ c ∈ (s.asmCfg a).channels, (t.chan c).trpActive = true
    let conflict := fun (a : Asm) =>
      ∃ c ∈ (s.asmCfg a).channels, (t.chan c).inActive = true ∧ (t.chan c).outActive = true
    (road → made .road none .extend .cut false none (fun _ => True)) ∧ (¬road → absent .road none) ∧
    (t.flag .roadDeployed = true ↔ s.flag .roadDeployed = true ∨ (road ∧ out)) ∧
    (t.mon.estp.active = true → made .estop none .both .cut true none (fun _ => True)) ∧
    (t.mon.estp.active = false → absent .estop none) ∧
    (∀ a : Asm, s.stanceAsm = some a →
      made .unset none .extend .ease false none needs ∧
      ((∃ b, needs b ∧ ¬home b) → made .slidesOut none .retract .ease false none (fun b => b = a)) ∧
      ((∀ b, needs b → home b) → absent .slidesOut none)) ∧
    (s.stanceAsm = none → absent .unset none ∧ absent .slidesOut none) ∧
    (∀ n : Fin 4,
      let p := s.setup.sweep[n]
      let live := p.defined = true ∧ (s.asmCfg p.awning).kind = .awning ∧ (s.asmCfg p.slide).kind = .slide
      (live → (t.asm p.slide).settled = false →
        made .sweep (some n.val) .both .cut false none (fun b => b = p.awning)) ∧
      (live → (t.asm p.slide).settled = true → ¬home p.awning →
        made .sweep (some n.val) .both .cut false none (fun b => b = p.slide)) ∧
      (¬live ∨ ((t.asm p.slide).settled = true ∧ home p.awning) → absent .sweep (some n.val))) ∧
    (∀ a : Asm,
      (trip a → made .fault (some a.val) .both .cut true (some .trip) (fun b => b = a)) ∧
      (¬trip a → conflict a → made .fault (some a.val) .both .cut true (some .sensorConflict) (fun b => b = a)) ∧
      (¬trip a → ¬conflict a → absent .fault (some a.val))) ∧
    (∀ h x, t.hold h = some x → t.flag .holdRaised = true ∧ x.owner = .monitor ∧ x.cause ≠ .lowv ∧ x.cause ≠ .wind) ∧
    (∀ h : HoldSlot, t.holds[h].gen = 0) ∧ t.inFlight = []

/-- R27, R60, R68, R69, R72, R79, R80, R82, R84, R86, R152, R197: READY reads the inputs and makes the holds of start-up
step 4 (DESIGN CHOICE: the events of a part past READY, notes/assumptions/5.md; the pins READY carries,
notes/assumptions/6.md; TRIP as the last of two faults, notes/assumptions/32.md). -/
def Obligations.Ready : Prop :=
  Clause.ReadyReadsTheInputs ∧ Clause.HoldsAtReady
end

