-- ==== Sys2Proof/Laws/State.lean ====
section
/-! SUPPORT. The updates of State, field by field: what each leaves as it was (true by definition), and what it writes. -/
namespace Sys2Proof.Laws
open Sys2Proof.Machine

/-! ## What an update leaves -/

@[simp] theorem setChan_setup (s : State) (c : Chan) (x : Channel) : (s.setChan c x).setup = s.setup := rfl
@[simp] theorem setChan_claims (s : State) (c : Chan) (x : Channel) : (s.setChan c x).claims = s.claims := rfl
@[simp] theorem setChan_succs (s : State) (c : Chan) (x : Channel) : (s.setChan c x).succs = s.succs := rfl
@[simp] theorem setChan_asms (s : State) (c : Chan) (x : Channel) : (s.setChan c x).asms = s.asms := rfl
@[simp] theorem setChan_holds (s : State) (c : Chan) (x : Channel) : (s.setChan c x).holds = s.holds := rfl
@[simp] theorem setChan_orders (s : State) (c : Chan) (x : Channel) : (s.setChan c x).orders = s.orders := rfl
@[simp] theorem setChan_mon (s : State) (c : Chan) (x : Channel) : (s.setChan c x).mon = s.mon := rfl
@[simp] theorem setChan_tilt (s : State) (c : Chan) (x : Channel) : (s.setChan c x).tilt = s.tilt := rfl
@[simp] theorem setChan_lev (s : State) (c : Chan) (x : Channel) : (s.setChan c x).lev = s.lev := rfl
@[simp] theorem setChan_store (s : State) (c : Chan) (x : Channel) : (s.setChan c x).store = s.store := rfl
@[simp] theorem setChan_nv (s : State) (c : Chan) (x : Channel) : (s.setChan c x).nv = s.nv := rfl
@[simp] theorem setChan_port (s : State) (c : Chan) (x : Channel) : (s.setChan c x).port = s.port := rfl
@[simp] theorem setChan_pins (s : State) (c : Chan) (x : Channel) : (s.setChan c x).pins = s.pins := rfl
@[simp] theorem setChan_sys (s : State) (c : Chan) (x : Channel) : (s.setChan c x).sys = s.sys := rfl
@[simp] theorem setChan_inFlight (s : State) (c : Chan) (x : Channel) : (s.setChan c x).inFlight = s.inFlight := rfl
@[simp] theorem setChan_reconsider (s : State) (c : Chan) (x : Channel) : (s.setChan c x).reconsider = s.reconsider := rfl
@[simp] theorem setChan_pending (s : State) (c : Chan) (x : Channel) : (s.setChan c x).pending = s.pending := rfl

@[simp] theorem setAsm_setup (s : State) (a : Asm) (x : AsmLive) : (s.setAsm a x).setup = s.setup := rfl
@[simp] theorem setAsm_channels (s : State) (a : Asm) (x : AsmLive) : (s.setAsm a x).channels = s.channels := rfl
@[simp] theorem setAsm_claims (s : State) (a : Asm) (x : AsmLive) : (s.setAsm a x).claims = s.claims := rfl
@[simp] theorem setAsm_succs (s : State) (a : Asm) (x : AsmLive) : (s.setAsm a x).succs = s.succs := rfl
@[simp] theorem setAsm_holds (s : State) (a : Asm) (x : AsmLive) : (s.setAsm a x).holds = s.holds := rfl
@[simp] theorem setAsm_orders (s : State) (a : Asm) (x : AsmLive) : (s.setAsm a x).orders = s.orders := rfl
@[simp] theorem setAsm_mon (s : State) (a : Asm) (x : AsmLive) : (s.setAsm a x).mon = s.mon := rfl
@[simp] theorem setAsm_tilt (s : State) (a : Asm) (x : AsmLive) : (s.setAsm a x).tilt = s.tilt := rfl
@[simp] theorem setAsm_lev (s : State) (a : Asm) (x : AsmLive) : (s.setAsm a x).lev = s.lev := rfl
@[simp] theorem setAsm_store (s : State) (a : Asm) (x : AsmLive) : (s.setAsm a x).store = s.store := rfl
@[simp] theorem setAsm_nv (s : State) (a : Asm) (x : AsmLive) : (s.setAsm a x).nv = s.nv := rfl
@[simp] theorem setAsm_port (s : State) (a : Asm) (x : AsmLive) : (s.setAsm a x).port = s.port := rfl
@[simp] theorem setAsm_pins (s : State) (a : Asm) (x : AsmLive) : (s.setAsm a x).pins = s.pins := rfl
@[simp] theorem setAsm_sys (s : State) (a : Asm) (x : AsmLive) : (s.setAsm a x).sys = s.sys := rfl
@[simp] theorem setAsm_inFlight (s : State) (a : Asm) (x : AsmLive) : (s.setAsm a x).inFlight = s.inFlight := rfl
@[simp] theorem setAsm_reconsider (s : State) (a : Asm) (x : AsmLive) : (s.setAsm a x).reconsider = s.reconsider := rfl
@[simp] theorem setAsm_pending (s : State) (a : Asm) (x : AsmLive) : (s.setAsm a x).pending = s.pending := rfl

@[simp] theorem setClaim_setup (s : State) (c : Chan) (x : Option OrderSlot) : (s.setClaim c x).setup = s.setup := rfl
@[simp] theorem setClaim_channels (s : State) (c : Chan) (x : Option OrderSlot) : (s.setClaim c x).channels = s.channels := rfl
@[simp] theorem setClaim_succs (s : State) (c : Chan) (x : Option OrderSlot) : (s.setClaim c x).succs = s.succs := rfl
@[simp] theorem setClaim_asms (s : State) (c : Chan) (x : Option OrderSlot) : (s.setClaim c x).asms = s.asms := rfl
@[simp] theorem setClaim_holds (s : State) (c : Chan) (x : Option OrderSlot) : (s.setClaim c x).holds = s.holds := rfl
@[simp] theorem setClaim_orders (s : State) (c : Chan) (x : Option OrderSlot) : (s.setClaim c x).orders = s.orders := rfl
@[simp] theorem setClaim_mon (s : State) (c : Chan) (x : Option OrderSlot) : (s.setClaim c x).mon = s.mon := rfl
@[simp] theorem setClaim_tilt (s : State) (c : Chan) (x : Option OrderSlot) : (s.setClaim c x).tilt = s.tilt := rfl
@[simp] theorem setClaim_lev (s : State) (c : Chan) (x : Option OrderSlot) : (s.setClaim c x).lev = s.lev := rfl
@[simp] theorem setClaim_store (s : State) (c : Chan) (x : Option OrderSlot) : (s.setClaim c x).store = s.store := rfl
@[simp] theorem setClaim_nv (s : State) (c : Chan) (x : Option OrderSlot) : (s.setClaim c x).nv = s.nv := rfl
@[simp] theorem setClaim_port (s : State) (c : Chan) (x : Option OrderSlot) : (s.setClaim c x).port = s.port := rfl
@[simp] theorem setClaim_pins (s : State) (c : Chan) (x : Option OrderSlot) : (s.setClaim c x).pins = s.pins := rfl
@[simp] theorem setClaim_sys (s : State) (c : Chan) (x : Option OrderSlot) : (s.setClaim c x).sys = s.sys := rfl
@[simp] theorem setClaim_inFlight (s : State) (c : Chan) (x : Option OrderSlot) : (s.setClaim c x).inFlight = s.inFlight := rfl
@[simp] theorem setClaim_reconsider (s : State) (c : Chan) (x : Option OrderSlot) : (s.setClaim c x).reconsider = s.reconsider := rfl
@[simp] theorem setClaim_pending (s : State) (c : Chan) (x : Option OrderSlot) : (s.setClaim c x).pending = s.pending := rfl

@[simp] theorem setSucc_setup (s : State) (c : Chan) (x : Option OrderSlot) : (s.setSucc c x).setup = s.setup := rfl
@[simp] theorem setSucc_channels (s : State) (c : Chan) (x : Option OrderSlot) : (s.setSucc c x).channels = s.channels := rfl
@[simp] theorem setSucc_claims (s : State) (c : Chan) (x : Option OrderSlot) : (s.setSucc c x).claims = s.claims := rfl
@[simp] theorem setSucc_asms (s : State) (c : Chan) (x : Option OrderSlot) : (s.setSucc c x).asms = s.asms := rfl
@[simp] theorem setSucc_holds (s : State) (c : Chan) (x : Option OrderSlot) : (s.setSucc c x).holds = s.holds := rfl
@[simp] theorem setSucc_orders (s : State) (c : Chan) (x : Option OrderSlot) : (s.setSucc c x).orders = s.orders := rfl
@[simp] theorem setSucc_mon (s : State) (c : Chan) (x : Option OrderSlot) : (s.setSucc c x).mon = s.mon := rfl
@[simp] theorem setSucc_tilt (s : State) (c : Chan) (x : Option OrderSlot) : (s.setSucc c x).tilt = s.tilt := rfl
@[simp] theorem setSucc_lev (s : State) (c : Chan) (x : Option OrderSlot) : (s.setSucc c x).lev = s.lev := rfl
@[simp] theorem setSucc_store (s : State) (c : Chan) (x : Option OrderSlot) : (s.setSucc c x).store = s.store := rfl
@[simp] theorem setSucc_nv (s : State) (c : Chan) (x : Option OrderSlot) : (s.setSucc c x).nv = s.nv := rfl
@[simp] theorem setSucc_port (s : State) (c : Chan) (x : Option OrderSlot) : (s.setSucc c x).port = s.port := rfl
@[simp] theorem setSucc_pins (s : State) (c : Chan) (x : Option OrderSlot) : (s.setSucc c x).pins = s.pins := rfl
@[simp] theorem setSucc_sys (s : State) (c : Chan) (x : Option OrderSlot) : (s.setSucc c x).sys = s.sys := rfl
@[simp] theorem setSucc_inFlight (s : State) (c : Chan) (x : Option OrderSlot) : (s.setSucc c x).inFlight = s.inFlight := rfl
@[simp] theorem setSucc_reconsider (s : State) (c : Chan) (x : Option OrderSlot) : (s.setSucc c x).reconsider = s.reconsider := rfl
@[simp] theorem setSucc_pending (s : State) (c : Chan) (x : Option OrderSlot) : (s.setSucc c x).pending = s.pending := rfl

@[simp] theorem setOrder_setup (s : State) (k : OrderSlot) (o : Order) : (s.setOrder k o).setup = s.setup := rfl
@[simp] theorem setOrder_channels (s : State) (k : OrderSlot) (o : Order) : (s.setOrder k o).channels = s.channels := rfl
@[simp] theorem setOrder_claims (s : State) (k : OrderSlot) (o : Order) : (s.setOrder k o).claims = s.claims := rfl
@[simp] theorem setOrder_succs (s : State) (k : OrderSlot) (o : Order) : (s.setOrder k o).succs = s.succs := rfl
@[simp] theorem setOrder_asms (s : State) (k : OrderSlot) (o : Order) : (s.setOrder k o).asms = s.asms := rfl
@[simp] theorem setOrder_holds (s : State) (k : OrderSlot) (o : Order) : (s.setOrder k o).holds = s.holds := rfl
@[simp] theorem setOrder_mon (s : State) (k : OrderSlot) (o : Order) : (s.setOrder k o).mon = s.mon := rfl
@[simp] theorem setOrder_tilt (s : State) (k : OrderSlot) (o : Order) : (s.setOrder k o).tilt = s.tilt := rfl
@[simp] theorem setOrder_lev (s : State) (k : OrderSlot) (o : Order) : (s.setOrder k o).lev = s.lev := rfl
@[simp] theorem setOrder_store (s : State) (k : OrderSlot) (o : Order) : (s.setOrder k o).store = s.store := rfl
@[simp] theorem setOrder_nv (s : State) (k : OrderSlot) (o : Order) : (s.setOrder k o).nv = s.nv := rfl
@[simp] theorem setOrder_port (s : State) (k : OrderSlot) (o : Order) : (s.setOrder k o).port = s.port := rfl
@[simp] theorem setOrder_pins (s : State) (k : OrderSlot) (o : Order) : (s.setOrder k o).pins = s.pins := rfl
@[simp] theorem setOrder_sys (s : State) (k : OrderSlot) (o : Order) : (s.setOrder k o).sys = s.sys := rfl
@[simp] theorem setOrder_inFlight (s : State) (k : OrderSlot) (o : Order) : (s.setOrder k o).inFlight = s.inFlight := rfl
@[simp] theorem setOrder_reconsider (s : State) (k : OrderSlot) (o : Order) : (s.setOrder k o).reconsider = s.reconsider := rfl
@[simp] theorem setOrder_pending (s : State) (k : OrderSlot) (o : Order) : (s.setOrder k o).pending = s.pending := rfl

@[simp] theorem freeOrder_setup (s : State) (k : OrderSlot) : (s.freeOrder k).setup = s.setup := rfl
@[simp] theorem freeOrder_channels (s : State) (k : OrderSlot) : (s.freeOrder k).channels = s.channels := rfl
@[simp] theorem freeOrder_claims (s : State) (k : OrderSlot) : (s.freeOrder k).claims = s.claims := rfl
@[simp] theorem freeOrder_succs (s : State) (k : OrderSlot) : (s.freeOrder k).succs = s.succs := rfl
@[simp] theorem freeOrder_asms (s : State) (k : OrderSlot) : (s.freeOrder k).asms = s.asms := rfl
@[simp] theorem freeOrder_holds (s : State) (k : OrderSlot) : (s.freeOrder k).holds = s.holds := rfl
@[simp] theorem freeOrder_mon (s : State) (k : OrderSlot) : (s.freeOrder k).mon = s.mon := rfl
@[simp] theorem freeOrder_tilt (s : State) (k : OrderSlot) : (s.freeOrder k).tilt = s.tilt := rfl
@[simp] theorem freeOrder_lev (s : State) (k : OrderSlot) : (s.freeOrder k).lev = s.lev := rfl
@[simp] theorem freeOrder_store (s : State) (k : OrderSlot) : (s.freeOrder k).store = s.store := rfl
@[simp] theorem freeOrder_nv (s : State) (k : OrderSlot) : (s.freeOrder k).nv = s.nv := rfl
@[simp] theorem freeOrder_port (s : State) (k : OrderSlot) : (s.freeOrder k).port = s.port := rfl
@[simp] theorem freeOrder_pins (s : State) (k : OrderSlot) : (s.freeOrder k).pins = s.pins := rfl
@[simp] theorem freeOrder_sys (s : State) (k : OrderSlot) : (s.freeOrder k).sys = s.sys := rfl
@[simp] theorem freeOrder_inFlight (s : State) (k : OrderSlot) : (s.freeOrder k).inFlight = s.inFlight := rfl
@[simp] theorem freeOrder_reconsider (s : State) (k : OrderSlot) : (s.freeOrder k).reconsider = s.reconsider := rfl
@[simp] theorem freeOrder_pending (s : State) (k : OrderSlot) : (s.freeOrder k).pending = s.pending := rfl

@[simp] theorem setHold_setup (s : State) (h : HoldSlot) (x : Hold) : (s.setHold h x).setup = s.setup := rfl
@[simp] theorem setHold_channels (s : State) (h : HoldSlot) (x : Hold) : (s.setHold h x).channels = s.channels := rfl
@[simp] theorem setHold_claims (s : State) (h : HoldSlot) (x : Hold) : (s.setHold h x).claims = s.claims := rfl
@[simp] theorem setHold_succs (s : State) (h : HoldSlot) (x : Hold) : (s.setHold h x).succs = s.succs := rfl
@[simp] theorem setHold_asms (s : State) (h : HoldSlot) (x : Hold) : (s.setHold h x).asms = s.asms := rfl
@[simp] theorem setHold_orders (s : State) (h : HoldSlot) (x : Hold) : (s.setHold h x).orders = s.orders := rfl
@[simp] theorem setHold_mon (s : State) (h : HoldSlot) (x : Hold) : (s.setHold h x).mon = s.mon := rfl
@[simp] theorem setHold_tilt (s : State) (h : HoldSlot) (x : Hold) : (s.setHold h x).tilt = s.tilt := rfl
@[simp] theorem setHold_lev (s : State) (h : HoldSlot) (x : Hold) : (s.setHold h x).lev = s.lev := rfl
@[simp] theorem setHold_store (s : State) (h : HoldSlot) (x : Hold) : (s.setHold h x).store = s.store := rfl
@[simp] theorem setHold_nv (s : State) (h : HoldSlot) (x : Hold) : (s.setHold h x).nv = s.nv := rfl
@[simp] theorem setHold_port (s : State) (h : HoldSlot) (x : Hold) : (s.setHold h x).port = s.port := rfl
@[simp] theorem setHold_pins (s : State) (h : HoldSlot) (x : Hold) : (s.setHold h x).pins = s.pins := rfl
@[simp] theorem setHold_sys (s : State) (h : HoldSlot) (x : Hold) : (s.setHold h x).sys = s.sys := rfl
@[simp] theorem setHold_inFlight (s : State) (h : HoldSlot) (x : Hold) : (s.setHold h x).inFlight = s.inFlight := rfl
@[simp] theorem setHold_reconsider (s : State) (h : HoldSlot) (x : Hold) : (s.setHold h x).reconsider = s.reconsider := rfl
@[simp] theorem setHold_pending (s : State) (h : HoldSlot) (x : Hold) : (s.setHold h x).pending = s.pending := rfl

@[simp] theorem freeHold_setup (s : State) (h : HoldSlot) : (s.freeHold h).setup = s.setup := rfl
@[simp] theorem freeHold_channels (s : State) (h : HoldSlot) : (s.freeHold h).channels = s.channels := rfl
@[simp] theorem freeHold_claims (s : State) (h : HoldSlot) : (s.freeHold h).claims = s.claims := rfl
@[simp] theorem freeHold_succs (s : State) (h : HoldSlot) : (s.freeHold h).succs = s.succs := rfl
@[simp] theorem freeHold_asms (s : State) (h : HoldSlot) : (s.freeHold h).asms = s.asms := rfl
@[simp] theorem freeHold_orders (s : State) (h : HoldSlot) : (s.freeHold h).orders = s.orders := rfl
@[simp] theorem freeHold_mon (s : State) (h : HoldSlot) : (s.freeHold h).mon = s.mon := rfl
@[simp] theorem freeHold_tilt (s : State) (h : HoldSlot) : (s.freeHold h).tilt = s.tilt := rfl
@[simp] theorem freeHold_lev (s : State) (h : HoldSlot) : (s.freeHold h).lev = s.lev := rfl
@[simp] theorem freeHold_store (s : State) (h : HoldSlot) : (s.freeHold h).store = s.store := rfl
@[simp] theorem freeHold_nv (s : State) (h : HoldSlot) : (s.freeHold h).nv = s.nv := rfl
@[simp] theorem freeHold_port (s : State) (h : HoldSlot) : (s.freeHold h).port = s.port := rfl
@[simp] theorem freeHold_pins (s : State) (h : HoldSlot) : (s.freeHold h).pins = s.pins := rfl
@[simp] theorem freeHold_sys (s : State) (h : HoldSlot) : (s.freeHold h).sys = s.sys := rfl
@[simp] theorem freeHold_inFlight (s : State) (h : HoldSlot) : (s.freeHold h).inFlight = s.inFlight := rfl
@[simp] theorem freeHold_reconsider (s : State) (h : HoldSlot) : (s.freeHold h).reconsider = s.reconsider := rfl
@[simp] theorem freeHold_pending (s : State) (h : HoldSlot) : (s.freeHold h).pending = s.pending := rfl

@[simp] theorem raise_setup (s : State) (f : Flag) : (raise f s).setup = s.setup := rfl
@[simp] theorem raise_channels (s : State) (f : Flag) : (raise f s).channels = s.channels := rfl
@[simp] theorem raise_claims (s : State) (f : Flag) : (raise f s).claims = s.claims := rfl
@[simp] theorem raise_succs (s : State) (f : Flag) : (raise f s).succs = s.succs := rfl
@[simp] theorem raise_asms (s : State) (f : Flag) : (raise f s).asms = s.asms := rfl
@[simp] theorem raise_holds (s : State) (f : Flag) : (raise f s).holds = s.holds := rfl
@[simp] theorem raise_orders (s : State) (f : Flag) : (raise f s).orders = s.orders := rfl
@[simp] theorem raise_mon (s : State) (f : Flag) : (raise f s).mon = s.mon := rfl
@[simp] theorem raise_tilt (s : State) (f : Flag) : (raise f s).tilt = s.tilt := rfl
@[simp] theorem raise_lev (s : State) (f : Flag) : (raise f s).lev = s.lev := rfl
@[simp] theorem raise_store (s : State) (f : Flag) : (raise f s).store = s.store := rfl
@[simp] theorem raise_nv (s : State) (f : Flag) : (raise f s).nv = s.nv := rfl
@[simp] theorem raise_pins (s : State) (f : Flag) : (raise f s).pins = s.pins := rfl
@[simp] theorem raise_sys (s : State) (f : Flag) : (raise f s).sys = s.sys := rfl
@[simp] theorem raise_inFlight (s : State) (f : Flag) : (raise f s).inFlight = s.inFlight := rfl
@[simp] theorem raise_reconsider (s : State) (f : Flag) : (raise f s).reconsider = s.reconsider := rfl
@[simp] theorem raise_pending (s : State) (f : Flag) : (raise f s).pending = s.pending := rfl

@[simp] theorem send_setup (s : State) (m : Msg) : (send m s).setup = s.setup := rfl
@[simp] theorem send_channels (s : State) (m : Msg) : (send m s).channels = s.channels := rfl
@[simp] theorem send_claims (s : State) (m : Msg) : (send m s).claims = s.claims := rfl
@[simp] theorem send_succs (s : State) (m : Msg) : (send m s).succs = s.succs := rfl
@[simp] theorem send_asms (s : State) (m : Msg) : (send m s).asms = s.asms := rfl
@[simp] theorem send_holds (s : State) (m : Msg) : (send m s).holds = s.holds := rfl
@[simp] theorem send_orders (s : State) (m : Msg) : (send m s).orders = s.orders := rfl
@[simp] theorem send_mon (s : State) (m : Msg) : (send m s).mon = s.mon := rfl
@[simp] theorem send_tilt (s : State) (m : Msg) : (send m s).tilt = s.tilt := rfl
@[simp] theorem send_lev (s : State) (m : Msg) : (send m s).lev = s.lev := rfl
@[simp] theorem send_store (s : State) (m : Msg) : (send m s).store = s.store := rfl
@[simp] theorem send_nv (s : State) (m : Msg) : (send m s).nv = s.nv := rfl
@[simp] theorem send_port (s : State) (m : Msg) : (send m s).port = s.port := rfl
@[simp] theorem send_pins (s : State) (m : Msg) : (send m s).pins = s.pins := rfl
@[simp] theorem send_sys (s : State) (m : Msg) : (send m s).sys = s.sys := rfl
@[simp] theorem send_reconsider (s : State) (m : Msg) : (send m s).reconsider = s.reconsider := rfl
@[simp] theorem send_pending (s : State) (m : Msg) : (send m s).pending = s.pending := rfl

@[simp] theorem sendAll_setup (s : State) (ms : List Msg) : (sendAll ms s).setup = s.setup := rfl
@[simp] theorem sendAll_channels (s : State) (ms : List Msg) : (sendAll ms s).channels = s.channels := rfl
@[simp] theorem sendAll_claims (s : State) (ms : List Msg) : (sendAll ms s).claims = s.claims := rfl
@[simp] theorem sendAll_succs (s : State) (ms : List Msg) : (sendAll ms s).succs = s.succs := rfl
@[simp] theorem sendAll_asms (s : State) (ms : List Msg) : (sendAll ms s).asms = s.asms := rfl
@[simp] theorem sendAll_holds (s : State) (ms : List Msg) : (sendAll ms s).holds = s.holds := rfl
@[simp] theorem sendAll_orders (s : State) (ms : List Msg) : (sendAll ms s).orders = s.orders := rfl
@[simp] theorem sendAll_mon (s : State) (ms : List Msg) : (sendAll ms s).mon = s.mon := rfl
@[simp] theorem sendAll_tilt (s : State) (ms : List Msg) : (sendAll ms s).tilt = s.tilt := rfl
@[simp] theorem sendAll_lev (s : State) (ms : List Msg) : (sendAll ms s).lev = s.lev := rfl
@[simp] theorem sendAll_store (s : State) (ms : List Msg) : (sendAll ms s).store = s.store := rfl
@[simp] theorem sendAll_nv (s : State) (ms : List Msg) : (sendAll ms s).nv = s.nv := rfl
@[simp] theorem sendAll_port (s : State) (ms : List Msg) : (sendAll ms s).port = s.port := rfl
@[simp] theorem sendAll_pins (s : State) (ms : List Msg) : (sendAll ms s).pins = s.pins := rfl
@[simp] theorem sendAll_sys (s : State) (ms : List Msg) : (sendAll ms s).sys = s.sys := rfl
@[simp] theorem sendAll_reconsider (s : State) (ms : List Msg) : (sendAll ms s).reconsider = s.reconsider := rfl
@[simp] theorem sendAll_pending (s : State) (ms : List Msg) : (sendAll ms s).pending = s.pending := rfl

@[simp] theorem unsend_setup (s : State) (m : Msg) : (s.unsend m).setup = s.setup := rfl
@[simp] theorem unsend_channels (s : State) (m : Msg) : (s.unsend m).channels = s.channels := rfl
@[simp] theorem unsend_claims (s : State) (m : Msg) : (s.unsend m).claims = s.claims := rfl
@[simp] theorem unsend_succs (s : State) (m : Msg) : (s.unsend m).succs = s.succs := rfl
@[simp] theorem unsend_asms (s : State) (m : Msg) : (s.unsend m).asms = s.asms := rfl
@[simp] theorem unsend_holds (s : State) (m : Msg) : (s.unsend m).holds = s.holds := rfl
@[simp] theorem unsend_orders (s : State) (m : Msg) : (s.unsend m).orders = s.orders := rfl
@[simp] theorem unsend_mon (s : State) (m : Msg) : (s.unsend m).mon = s.mon := rfl
@[simp] theorem unsend_tilt (s : State) (m : Msg) : (s.unsend m).tilt = s.tilt := rfl
@[simp] theorem unsend_lev (s : State) (m : Msg) : (s.unsend m).lev = s.lev := rfl
@[simp] theorem unsend_store (s : State) (m : Msg) : (s.unsend m).store = s.store := rfl
@[simp] theorem unsend_nv (s : State) (m : Msg) : (s.unsend m).nv = s.nv := rfl
@[simp] theorem unsend_port (s : State) (m : Msg) : (s.unsend m).port = s.port := rfl
@[simp] theorem unsend_pins (s : State) (m : Msg) : (s.unsend m).pins = s.pins := rfl
@[simp] theorem unsend_sys (s : State) (m : Msg) : (s.unsend m).sys = s.sys := rfl
@[simp] theorem unsend_reconsider (s : State) (m : Msg) : (s.unsend m).reconsider = s.reconsider := rfl
@[simp] theorem unsend_pending (s : State) (m : Msg) : (s.unsend m).pending = s.pending := rfl

@[simp] theorem wantReconsider_setup (s : State) : (wantReconsider s).setup = s.setup := rfl
@[simp] theorem wantReconsider_channels (s : State) : (wantReconsider s).channels = s.channels := rfl
@[simp] theorem wantReconsider_claims (s : State) : (wantReconsider s).claims = s.claims := rfl
@[simp] theorem wantReconsider_succs (s : State) : (wantReconsider s).succs = s.succs := rfl
@[simp] theorem wantReconsider_asms (s : State) : (wantReconsider s).asms = s.asms := rfl
@[simp] theorem wantReconsider_holds (s : State) : (wantReconsider s).holds = s.holds := rfl
@[simp] theorem wantReconsider_orders (s : State) : (wantReconsider s).orders = s.orders := rfl
@[simp] theorem wantReconsider_mon (s : State) : (wantReconsider s).mon = s.mon := rfl
@[simp] theorem wantReconsider_tilt (s : State) : (wantReconsider s).tilt = s.tilt := rfl
@[simp] theorem wantReconsider_lev (s : State) : (wantReconsider s).lev = s.lev := rfl
@[simp] theorem wantReconsider_store (s : State) : (wantReconsider s).store = s.store := rfl
@[simp] theorem wantReconsider_nv (s : State) : (wantReconsider s).nv = s.nv := rfl
@[simp] theorem wantReconsider_port (s : State) : (wantReconsider s).port = s.port := rfl
@[simp] theorem wantReconsider_pins (s : State) : (wantReconsider s).pins = s.pins := rfl
@[simp] theorem wantReconsider_sys (s : State) : (wantReconsider s).sys = s.sys := rfl
@[simp] theorem wantReconsider_inFlight (s : State) : (wantReconsider s).inFlight = s.inFlight := rfl
@[simp] theorem wantReconsider_pending (s : State) : (wantReconsider s).pending = s.pending := rfl

@[simp] theorem setLatch_setup (s : State) (a : Asm) (k : FaultKind) : (setLatch a k s).setup = s.setup := rfl
@[simp] theorem setLatch_channels (s : State) (a : Asm) (k : FaultKind) : (setLatch a k s).channels = s.channels := rfl
@[simp] theorem setLatch_claims (s : State) (a : Asm) (k : FaultKind) : (setLatch a k s).claims = s.claims := rfl
@[simp] theorem setLatch_succs (s : State) (a : Asm) (k : FaultKind) : (setLatch a k s).succs = s.succs := rfl
@[simp] theorem setLatch_asms (s : State) (a : Asm) (k : FaultKind) : (setLatch a k s).asms = s.asms := rfl
@[simp] theorem setLatch_holds (s : State) (a : Asm) (k : FaultKind) : (setLatch a k s).holds = s.holds := rfl
@[simp] theorem setLatch_orders (s : State) (a : Asm) (k : FaultKind) : (setLatch a k s).orders = s.orders := rfl
@[simp] theorem setLatch_tilt (s : State) (a : Asm) (k : FaultKind) : (setLatch a k s).tilt = s.tilt := rfl
@[simp] theorem setLatch_lev (s : State) (a : Asm) (k : FaultKind) : (setLatch a k s).lev = s.lev := rfl
@[simp] theorem setLatch_store (s : State) (a : Asm) (k : FaultKind) : (setLatch a k s).store = s.store := rfl
@[simp] theorem setLatch_nv (s : State) (a : Asm) (k : FaultKind) : (setLatch a k s).nv = s.nv := rfl
@[simp] theorem setLatch_port (s : State) (a : Asm) (k : FaultKind) : (setLatch a k s).port = s.port := rfl
@[simp] theorem setLatch_pins (s : State) (a : Asm) (k : FaultKind) : (setLatch a k s).pins = s.pins := rfl
@[simp] theorem setLatch_sys (s : State) (a : Asm) (k : FaultKind) : (setLatch a k s).sys = s.sys := rfl
@[simp] theorem setLatch_inFlight (s : State) (a : Asm) (k : FaultKind) : (setLatch a k s).inFlight = s.inFlight := rfl
@[simp] theorem setLatch_reconsider (s : State) (a : Asm) (k : FaultKind) : (setLatch a k s).reconsider = s.reconsider := rfl
@[simp] theorem setLatch_pending (s : State) (a : Asm) (k : FaultKind) : (setLatch a k s).pending = s.pending := rfl

@[simp] theorem withMem_setup (s : State) (m : Memory) : (s.withMem m).setup = s.setup := rfl
@[simp] theorem withMem_channels (s : State) (m : Memory) : (s.withMem m).channels = s.channels := rfl
@[simp] theorem withMem_claims (s : State) (m : Memory) : (s.withMem m).claims = s.claims := rfl
@[simp] theorem withMem_succs (s : State) (m : Memory) : (s.withMem m).succs = s.succs := rfl
@[simp] theorem withMem_asms (s : State) (m : Memory) : (s.withMem m).asms = s.asms := rfl
@[simp] theorem withMem_holds (s : State) (m : Memory) : (s.withMem m).holds = s.holds := rfl
@[simp] theorem withMem_orders (s : State) (m : Memory) : (s.withMem m).orders = s.orders := rfl
@[simp] theorem withMem_mon (s : State) (m : Memory) : (s.withMem m).mon = s.mon := rfl
@[simp] theorem withMem_tilt (s : State) (m : Memory) : (s.withMem m).tilt = s.tilt := rfl
@[simp] theorem withMem_lev (s : State) (m : Memory) : (s.withMem m).lev = s.lev := rfl
@[simp] theorem withMem_store (s : State) (m : Memory) : (s.withMem m).store = s.store := rfl
@[simp] theorem withMem_port (s : State) (m : Memory) : (s.withMem m).port = s.port := rfl
@[simp] theorem withMem_pins (s : State) (m : Memory) : (s.withMem m).pins = s.pins := rfl
@[simp] theorem withMem_sys (s : State) (m : Memory) : (s.withMem m).sys = s.sys := rfl
@[simp] theorem withMem_inFlight (s : State) (m : Memory) : (s.withMem m).inFlight = s.inFlight := rfl
@[simp] theorem withMem_reconsider (s : State) (m : Memory) : (s.withMem m).reconsider = s.reconsider := rfl
@[simp] theorem withMem_pending (s : State) (m : Memory) : (s.withMem m).pending = s.pending := rfl

@[simp] theorem setDir_setup (s : State) (p : ProfileSlot) (e : DirEntry) : (setDir p e s).setup = s.setup := rfl
@[simp] theorem setDir_channels (s : State) (p : ProfileSlot) (e : DirEntry) : (setDir p e s).channels = s.channels := rfl
@[simp] theorem setDir_claims (s : State) (p : ProfileSlot) (e : DirEntry) : (setDir p e s).claims = s.claims := rfl
@[simp] theorem setDir_succs (s : State) (p : ProfileSlot) (e : DirEntry) : (setDir p e s).succs = s.succs := rfl
@[simp] theorem setDir_asms (s : State) (p : ProfileSlot) (e : DirEntry) : (setDir p e s).asms = s.asms := rfl
@[simp] theorem setDir_holds (s : State) (p : ProfileSlot) (e : DirEntry) : (setDir p e s).holds = s.holds := rfl
@[simp] theorem setDir_orders (s : State) (p : ProfileSlot) (e : DirEntry) : (setDir p e s).orders = s.orders := rfl
@[simp] theorem setDir_mon (s : State) (p : ProfileSlot) (e : DirEntry) : (setDir p e s).mon = s.mon := rfl
@[simp] theorem setDir_tilt (s : State) (p : ProfileSlot) (e : DirEntry) : (setDir p e s).tilt = s.tilt := rfl
@[simp] theorem setDir_lev (s : State) (p : ProfileSlot) (e : DirEntry) : (setDir p e s).lev = s.lev := rfl
@[simp] theorem setDir_nv (s : State) (p : ProfileSlot) (e : DirEntry) : (setDir p e s).nv = s.nv := rfl
@[simp] theorem setDir_port (s : State) (p : ProfileSlot) (e : DirEntry) : (setDir p e s).port = s.port := rfl
@[simp] theorem setDir_pins (s : State) (p : ProfileSlot) (e : DirEntry) : (setDir p e s).pins = s.pins := rfl
@[simp] theorem setDir_sys (s : State) (p : ProfileSlot) (e : DirEntry) : (setDir p e s).sys = s.sys := rfl
@[simp] theorem setDir_inFlight (s : State) (p : ProfileSlot) (e : DirEntry) : (setDir p e s).inFlight = s.inFlight := rfl
@[simp] theorem setDir_reconsider (s : State) (p : ProfileSlot) (e : DirEntry) : (setDir p e s).reconsider = s.reconsider := rfl
@[simp] theorem setDir_pending (s : State) (p : ProfileSlot) (e : DirEntry) : (setDir p e s).pending = s.pending := rfl

@[simp] theorem dropReads_setup (s : State) (h : Byte) : (dropReads h s).setup = s.setup := rfl
@[simp] theorem dropReads_channels (s : State) (h : Byte) : (dropReads h s).channels = s.channels := rfl
@[simp] theorem dropReads_claims (s : State) (h : Byte) : (dropReads h s).claims = s.claims := rfl
@[simp] theorem dropReads_succs (s : State) (h : Byte) : (dropReads h s).succs = s.succs := rfl
@[simp] theorem dropReads_asms (s : State) (h : Byte) : (dropReads h s).asms = s.asms := rfl
@[simp] theorem dropReads_holds (s : State) (h : Byte) : (dropReads h s).holds = s.holds := rfl
@[simp] theorem dropReads_orders (s : State) (h : Byte) : (dropReads h s).orders = s.orders := rfl
@[simp] theorem dropReads_mon (s : State) (h : Byte) : (dropReads h s).mon = s.mon := rfl
@[simp] theorem dropReads_tilt (s : State) (h : Byte) : (dropReads h s).tilt = s.tilt := rfl
@[simp] theorem dropReads_lev (s : State) (h : Byte) : (dropReads h s).lev = s.lev := rfl
@[simp] theorem dropReads_nv (s : State) (h : Byte) : (dropReads h s).nv = s.nv := rfl
@[simp] theorem dropReads_port (s : State) (h : Byte) : (dropReads h s).port = s.port := rfl
@[simp] theorem dropReads_pins (s : State) (h : Byte) : (dropReads h s).pins = s.pins := rfl
@[simp] theorem dropReads_sys (s : State) (h : Byte) : (dropReads h s).sys = s.sys := rfl
@[simp] theorem dropReads_inFlight (s : State) (h : Byte) : (dropReads h s).inFlight = s.inFlight := rfl
@[simp] theorem dropReads_reconsider (s : State) (h : Byte) : (dropReads h s).reconsider = s.reconsider := rfl
@[simp] theorem dropReads_pending (s : State) (h : Byte) : (dropReads h s).pending = s.pending := rfl

@[simp] theorem runStep_setup (s : State) (st : StoreState) (op : Operation) : (runStep st op s).setup = s.setup := rfl
@[simp] theorem runStep_channels (s : State) (st : StoreState) (op : Operation) : (runStep st op s).channels = s.channels := rfl
@[simp] theorem runStep_claims (s : State) (st : StoreState) (op : Operation) : (runStep st op s).claims = s.claims := rfl
@[simp] theorem runStep_succs (s : State) (st : StoreState) (op : Operation) : (runStep st op s).succs = s.succs := rfl
@[simp] theorem runStep_asms (s : State) (st : StoreState) (op : Operation) : (runStep st op s).asms = s.asms := rfl
@[simp] theorem runStep_holds (s : State) (st : StoreState) (op : Operation) : (runStep st op s).holds = s.holds := rfl
@[simp] theorem runStep_orders (s : State) (st : StoreState) (op : Operation) : (runStep st op s).orders = s.orders := rfl
@[simp] theorem runStep_mon (s : State) (st : StoreState) (op : Operation) : (runStep st op s).mon = s.mon := rfl
@[simp] theorem runStep_tilt (s : State) (st : StoreState) (op : Operation) : (runStep st op s).tilt = s.tilt := rfl
@[simp] theorem runStep_lev (s : State) (st : StoreState) (op : Operation) : (runStep st op s).lev = s.lev := rfl
@[simp] theorem runStep_nv (s : State) (st : StoreState) (op : Operation) : (runStep st op s).nv = s.nv := rfl
@[simp] theorem runStep_port (s : State) (st : StoreState) (op : Operation) : (runStep st op s).port = s.port := rfl
@[simp] theorem runStep_pins (s : State) (st : StoreState) (op : Operation) : (runStep st op s).pins = s.pins := rfl
@[simp] theorem runStep_sys (s : State) (st : StoreState) (op : Operation) : (runStep st op s).sys = s.sys := rfl
@[simp] theorem runStep_inFlight (s : State) (st : StoreState) (op : Operation) : (runStep st op s).inFlight = s.inFlight := rfl
@[simp] theorem runStep_reconsider (s : State) (st : StoreState) (op : Operation) : (runStep st op s).reconsider = s.reconsider := rfl
@[simp] theorem runStep_pending (s : State) (st : StoreState) (op : Operation) : (runStep st op s).pending = s.pending := rfl

@[simp] theorem storeIdle_setup (s : State) : (storeIdle s).setup = s.setup := rfl
@[simp] theorem storeIdle_channels (s : State) : (storeIdle s).channels = s.channels := rfl
@[simp] theorem storeIdle_claims (s : State) : (storeIdle s).claims = s.claims := rfl
@[simp] theorem storeIdle_succs (s : State) : (storeIdle s).succs = s.succs := rfl
@[simp] theorem storeIdle_asms (s : State) : (storeIdle s).asms = s.asms := rfl
@[simp] theorem storeIdle_holds (s : State) : (storeIdle s).holds = s.holds := rfl
@[simp] theorem storeIdle_orders (s : State) : (storeIdle s).orders = s.orders := rfl
@[simp] theorem storeIdle_mon (s : State) : (storeIdle s).mon = s.mon := rfl
@[simp] theorem storeIdle_tilt (s : State) : (storeIdle s).tilt = s.tilt := rfl
@[simp] theorem storeIdle_lev (s : State) : (storeIdle s).lev = s.lev := rfl
@[simp] theorem storeIdle_nv (s : State) : (storeIdle s).nv = s.nv := rfl
@[simp] theorem storeIdle_port (s : State) : (storeIdle s).port = s.port := rfl
@[simp] theorem storeIdle_pins (s : State) : (storeIdle s).pins = s.pins := rfl
@[simp] theorem storeIdle_sys (s : State) : (storeIdle s).sys = s.sys := rfl
@[simp] theorem storeIdle_inFlight (s : State) : (storeIdle s).inFlight = s.inFlight := rfl
@[simp] theorem storeIdle_reconsider (s : State) : (storeIdle s).reconsider = s.reconsider := rfl
@[simp] theorem storeIdle_pending (s : State) : (storeIdle s).pending = s.pending := rfl

@[simp] theorem suspend_setup (s : State) (op : Operation) (h : HaltedFrom) : (suspend op h s).setup = s.setup := rfl
@[simp] theorem suspend_channels (s : State) (op : Operation) (h : HaltedFrom) : (suspend op h s).channels = s.channels := rfl
@[simp] theorem suspend_claims (s : State) (op : Operation) (h : HaltedFrom) : (suspend op h s).claims = s.claims := rfl
@[simp] theorem suspend_succs (s : State) (op : Operation) (h : HaltedFrom) : (suspend op h s).succs = s.succs := rfl
@[simp] theorem suspend_asms (s : State) (op : Operation) (h : HaltedFrom) : (suspend op h s).asms = s.asms := rfl
@[simp] theorem suspend_holds (s : State) (op : Operation) (h : HaltedFrom) : (suspend op h s).holds = s.holds := rfl
@[simp] theorem suspend_orders (s : State) (op : Operation) (h : HaltedFrom) : (suspend op h s).orders = s.orders := rfl
@[simp] theorem suspend_mon (s : State) (op : Operation) (h : HaltedFrom) : (suspend op h s).mon = s.mon := rfl
@[simp] theorem suspend_tilt (s : State) (op : Operation) (h : HaltedFrom) : (suspend op h s).tilt = s.tilt := rfl
@[simp] theorem suspend_lev (s : State) (op : Operation) (h : HaltedFrom) : (suspend op h s).lev = s.lev := rfl
@[simp] theorem suspend_nv (s : State) (op : Operation) (h : HaltedFrom) : (suspend op h s).nv = s.nv := rfl
@[simp] theorem suspend_port (s : State) (op : Operation) (h : HaltedFrom) : (suspend op h s).port = s.port := rfl
@[simp] theorem suspend_pins (s : State) (op : Operation) (h : HaltedFrom) : (suspend op h s).pins = s.pins := rfl
@[simp] theorem suspend_sys (s : State) (op : Operation) (h : HaltedFrom) : (suspend op h s).sys = s.sys := rfl
@[simp] theorem suspend_inFlight (s : State) (op : Operation) (h : HaltedFrom) : (suspend op h s).inFlight = s.inFlight := rfl
@[simp] theorem suspend_reconsider (s : State) (op : Operation) (h : HaltedFrom) : (suspend op h s).reconsider = s.reconsider := rfl
@[simp] theorem suspend_pending (s : State) (op : Operation) (h : HaltedFrom) : (suspend op h s).pending = s.pending := rfl

@[simp] theorem setCfg_channels (s : State) (c : Chan) (x : ChannelSetup) : (setCfg c x s).channels = s.channels := rfl
@[simp] theorem setCfg_claims (s : State) (c : Chan) (x : ChannelSetup) : (setCfg c x s).claims = s.claims := rfl
@[simp] theorem setCfg_succs (s : State) (c : Chan) (x : ChannelSetup) : (setCfg c x s).succs = s.succs := rfl
@[simp] theorem setCfg_asms (s : State) (c : Chan) (x : ChannelSetup) : (setCfg c x s).asms = s.asms := rfl
@[simp] theorem setCfg_holds (s : State) (c : Chan) (x : ChannelSetup) : (setCfg c x s).holds = s.holds := rfl
@[simp] theorem setCfg_orders (s : State) (c : Chan) (x : ChannelSetup) : (setCfg c x s).orders = s.orders := rfl
@[simp] theorem setCfg_mon (s : State) (c : Chan) (x : ChannelSetup) : (setCfg c x s).mon = s.mon := rfl
@[simp] theorem setCfg_tilt (s : State) (c : Chan) (x : ChannelSetup) : (setCfg c x s).tilt = s.tilt := rfl
@[simp] theorem setCfg_lev (s : State) (c : Chan) (x : ChannelSetup) : (setCfg c x s).lev = s.lev := rfl
@[simp] theorem setCfg_store (s : State) (c : Chan) (x : ChannelSetup) : (setCfg c x s).store = s.store := rfl
@[simp] theorem setCfg_nv (s : State) (c : Chan) (x : ChannelSetup) : (setCfg c x s).nv = s.nv := rfl
@[simp] theorem setCfg_port (s : State) (c : Chan) (x : ChannelSetup) : (setCfg c x s).port = s.port := rfl
@[simp] theorem setCfg_pins (s : State) (c : Chan) (x : ChannelSetup) : (setCfg c x s).pins = s.pins := rfl
@[simp] theorem setCfg_sys (s : State) (c : Chan) (x : ChannelSetup) : (setCfg c x s).sys = s.sys := rfl
@[simp] theorem setCfg_inFlight (s : State) (c : Chan) (x : ChannelSetup) : (setCfg c x s).inFlight = s.inFlight := rfl
@[simp] theorem setCfg_reconsider (s : State) (c : Chan) (x : ChannelSetup) : (setCfg c x s).reconsider = s.reconsider := rfl
@[simp] theorem setCfg_pending (s : State) (c : Chan) (x : ChannelSetup) : (setCfg c x s).pending = s.pending := rfl

@[simp] theorem setPin_setup (s : State) (c : Chan) (f : ChanPins → ChanPins) : (setPin c f s).setup = s.setup := rfl
@[simp] theorem setPin_channels (s : State) (c : Chan) (f : ChanPins → ChanPins) : (setPin c f s).channels = s.channels := rfl
@[simp] theorem setPin_claims (s : State) (c : Chan) (f : ChanPins → ChanPins) : (setPin c f s).claims = s.claims := rfl
@[simp] theorem setPin_succs (s : State) (c : Chan) (f : ChanPins → ChanPins) : (setPin c f s).succs = s.succs := rfl
@[simp] theorem setPin_asms (s : State) (c : Chan) (f : ChanPins → ChanPins) : (setPin c f s).asms = s.asms := rfl
@[simp] theorem setPin_holds (s : State) (c : Chan) (f : ChanPins → ChanPins) : (setPin c f s).holds = s.holds := rfl
@[simp] theorem setPin_orders (s : State) (c : Chan) (f : ChanPins → ChanPins) : (setPin c f s).orders = s.orders := rfl
@[simp] theorem setPin_mon (s : State) (c : Chan) (f : ChanPins → ChanPins) : (setPin c f s).mon = s.mon := rfl
@[simp] theorem setPin_tilt (s : State) (c : Chan) (f : ChanPins → ChanPins) : (setPin c f s).tilt = s.tilt := rfl
@[simp] theorem setPin_lev (s : State) (c : Chan) (f : ChanPins → ChanPins) : (setPin c f s).lev = s.lev := rfl
@[simp] theorem setPin_store (s : State) (c : Chan) (f : ChanPins → ChanPins) : (setPin c f s).store = s.store := rfl
@[simp] theorem setPin_nv (s : State) (c : Chan) (f : ChanPins → ChanPins) : (setPin c f s).nv = s.nv := rfl
@[simp] theorem setPin_port (s : State) (c : Chan) (f : ChanPins → ChanPins) : (setPin c f s).port = s.port := rfl
@[simp] theorem setPin_sys (s : State) (c : Chan) (f : ChanPins → ChanPins) : (setPin c f s).sys = s.sys := rfl
@[simp] theorem setPin_inFlight (s : State) (c : Chan) (f : ChanPins → ChanPins) : (setPin c f s).inFlight = s.inFlight := rfl
@[simp] theorem setPin_reconsider (s : State) (c : Chan) (f : ChanPins → ChanPins) : (setPin c f s).reconsider = s.reconsider := rfl
@[simp] theorem setPin_pending (s : State) (c : Chan) (f : ChanPins → ChanPins) : (setPin c f s).pending = s.pending := rfl

@[simp] theorem respond_setup (s : State) (r : Result) (d : List Byte) : (respond r d s).setup = s.setup := rfl
@[simp] theorem respond_channels (s : State) (r : Result) (d : List Byte) : (respond r d s).channels = s.channels := rfl
@[simp] theorem respond_claims (s : State) (r : Result) (d : List Byte) : (respond r d s).claims = s.claims := rfl
@[simp] theorem respond_succs (s : State) (r : Result) (d : List Byte) : (respond r d s).succs = s.succs := rfl
@[simp] theorem respond_asms (s : State) (r : Result) (d : List Byte) : (respond r d s).asms = s.asms := rfl
@[simp] theorem respond_holds (s : State) (r : Result) (d : List Byte) : (respond r d s).holds = s.holds := rfl
@[simp] theorem respond_orders (s : State) (r : Result) (d : List Byte) : (respond r d s).orders = s.orders := rfl
@[simp] theorem respond_mon (s : State) (r : Result) (d : List Byte) : (respond r d s).mon = s.mon := rfl
@[simp] theorem respond_tilt (s : State) (r : Result) (d : List Byte) : (respond r d s).tilt = s.tilt := rfl
@[simp] theorem respond_lev (s : State) (r : Result) (d : List Byte) : (respond r d s).lev = s.lev := rfl
@[simp] theorem respond_store (s : State) (r : Result) (d : List Byte) : (respond r d s).store = s.store := rfl
@[simp] theorem respond_nv (s : State) (r : Result) (d : List Byte) : (respond r d s).nv = s.nv := rfl
@[simp] theorem respond_pins (s : State) (r : Result) (d : List Byte) : (respond r d s).pins = s.pins := rfl
@[simp] theorem respond_sys (s : State) (r : Result) (d : List Byte) : (respond r d s).sys = s.sys := rfl
@[simp] theorem respond_inFlight (s : State) (r : Result) (d : List Byte) : (respond r d s).inFlight = s.inFlight := rfl
@[simp] theorem respond_reconsider (s : State) (r : Result) (d : List Byte) : (respond r d s).reconsider = s.reconsider := rfl
@[simp] theorem respond_pending (s : State) (r : Result) (d : List Byte) : (respond r d s).pending = s.pending := rfl

/-! ## What an update writes -/

@[simp] theorem setChan_channels (s : State) (c : Chan) (x : Channel) : (s.setChan c x).channels = s.channels.set c x := rfl
@[simp] theorem setAsm_asms (s : State) (a : Asm) (x : AsmLive) : (s.setAsm a x).asms = s.asms.set a x := rfl
@[simp] theorem setClaim_claims (s : State) (c : Chan) (x : Option OrderSlot) : (s.setClaim c x).claims = s.claims.set c x := rfl
@[simp] theorem setSucc_succs (s : State) (c : Chan) (x : Option OrderSlot) : (s.setSucc c x).succs = s.succs.set c x := rfl
@[simp] theorem setOrder_orders (s : State) (k : OrderSlot) (o : Order) : (s.setOrder k o).orders = s.orders.set k { gen := s.orders[k].gen, order := some o } := rfl
@[simp] theorem freeOrder_orders (s : State) (k : OrderSlot) : (s.freeOrder k).orders = s.orders.set k { gen := (s.orders[k].gen + 1) % 32, order := none } := rfl
@[simp] theorem setHold_holds (s : State) (h : HoldSlot) (x : Hold) : (s.setHold h x).holds = s.holds.set h { gen := s.holds[h].gen, hold := some x } := rfl
@[simp] theorem freeHold_holds (s : State) (h : HoldSlot) : (s.freeHold h).holds = s.holds.set h { gen := (s.holds[h].gen + 1) % 8, hold := none } := rfl
@[simp] theorem raise_port (s : State) (f : Flag) : (raise f s).port = { s.port with word := s.port.word ||| f.bit } := rfl
@[simp] theorem send_inFlight (s : State) (m : Msg) : (send m s).inFlight = s.inFlight ++ [m] := rfl
@[simp] theorem sendAll_inFlight (s : State) (ms : List Msg) : (sendAll ms s).inFlight = s.inFlight ++ ms := rfl
@[simp] theorem unsend_inFlight (s : State) (m : Msg) : (s.unsend m).inFlight = s.inFlight.erase m := rfl
@[simp] theorem wantReconsider_reconsider (s : State) : (wantReconsider s).reconsider = true := rfl
@[simp] theorem setLatch_mon (s : State) (a : Asm) (k : FaultKind) : (setLatch a k s).mon = { s.mon with latches := s.mon.latches.set a (some k) } := rfl
@[simp] theorem withMem_nv (s : State) (m : Memory) : (s.withMem m).nv = { s.nv with mem := m } := rfl
@[simp] theorem setDir_store (s : State) (p : ProfileSlot) (e : DirEntry) : (setDir p e s).store = { s.store with directory := s.store.directory.set p e } := rfl
@[simp] theorem setCfg_setup (s : State) (c : Chan) (x : ChannelSetup) : (setCfg c x s).setup = { s.setup with channels := s.setup.channels.set c x } := rfl

/-! ## Records read by number after an update -/

@[simp] theorem setChan_cfg (s : State) (c : Chan) (x : Channel) (d : Chan) : (s.setChan c x).cfg d = s.cfg d := rfl
@[simp] theorem setChan_asm (s : State) (c : Chan) (x : Channel) (b : Asm) : (s.setChan c x).asm b = s.asm b := rfl
@[simp] theorem setChan_asmCfg (s : State) (c : Chan) (x : Channel) (b : Asm) : (s.setChan c x).asmCfg b = s.asmCfg b := rfl
@[simp] theorem setChan_asmOf (s : State) (c : Chan) (x : Channel) (d : Chan) : (s.setChan c x).asmOf d = s.asmOf d := rfl
@[simp] theorem setChan_order (s : State) (c : Chan) (x : Channel) (j : OrderSlot) : (s.setChan c x).order j = s.order j := rfl
@[simp] theorem setChan_hold (s : State) (c : Chan) (x : Channel) (i : HoldSlot) : (s.setChan c x).hold i = s.hold i := rfl

@[simp] theorem setAsm_chan (s : State) (a : Asm) (x : AsmLive) (d : Chan) : (s.setAsm a x).chan d = s.chan d := rfl
@[simp] theorem setAsm_cfg (s : State) (a : Asm) (x : AsmLive) (d : Chan) : (s.setAsm a x).cfg d = s.cfg d := rfl
@[simp] theorem setAsm_asmCfg (s : State) (a : Asm) (x : AsmLive) (b : Asm) : (s.setAsm a x).asmCfg b = s.asmCfg b := rfl
@[simp] theorem setAsm_asmOf (s : State) (a : Asm) (x : AsmLive) (d : Chan) : (s.setAsm a x).asmOf d = s.asmOf d := rfl
@[simp] theorem setAsm_order (s : State) (a : Asm) (x : AsmLive) (j : OrderSlot) : (s.setAsm a x).order j = s.order j := rfl
@[simp] theorem setAsm_hold (s : State) (a : Asm) (x : AsmLive) (i : HoldSlot) : (s.setAsm a x).hold i = s.hold i := rfl

@[simp] theorem setClaim_chan (s : State) (c : Chan) (x : Option OrderSlot) (d : Chan) : (s.setClaim c x).chan d = s.chan d := rfl
@[simp] theorem setClaim_cfg (s : State) (c : Chan) (x : Option OrderSlot) (d : Chan) : (s.setClaim c x).cfg d = s.cfg d := rfl
@[simp] theorem setClaim_asm (s : State) (c : Chan) (x : Option OrderSlot) (b : Asm) : (s.setClaim c x).asm b = s.asm b := rfl
@[simp] theorem setClaim_asmCfg (s : State) (c : Chan) (x : Option OrderSlot) (b : Asm) : (s.setClaim c x).asmCfg b = s.asmCfg b := rfl
@[simp] theorem setClaim_asmOf (s : State) (c : Chan) (x : Option OrderSlot) (d : Chan) : (s.setClaim c x).asmOf d = s.asmOf d := rfl
@[simp] theorem setClaim_order (s : State) (c : Chan) (x : Option OrderSlot) (j : OrderSlot) : (s.setClaim c x).order j = s.order j := rfl
@[simp] theorem setClaim_hold (s : State) (c : Chan) (x : Option OrderSlot) (i : HoldSlot) : (s.setClaim c x).hold i = s.hold i := rfl

@[simp] theorem setSucc_chan (s : State) (c : Chan) (x : Option OrderSlot) (d : Chan) : (s.setSucc c x).chan d = s.chan d := rfl
@[simp] theorem setSucc_cfg (s : State) (c : Chan) (x : Option OrderSlot) (d : Chan) : (s.setSucc c x).cfg d = s.cfg d := rfl
@[simp] theorem setSucc_asm (s : State) (c : Chan) (x : Option OrderSlot) (b : Asm) : (s.setSucc c x).asm b = s.asm b := rfl
@[simp] theorem setSucc_asmCfg (s : State) (c : Chan) (x : Option OrderSlot) (b : Asm) : (s.setSucc c x).asmCfg b = s.asmCfg b := rfl
@[simp] theorem setSucc_asmOf (s : State) (c : Chan) (x : Option OrderSlot) (d : Chan) : (s.setSucc c x).asmOf d = s.asmOf d := rfl
@[simp] theorem setSucc_order (s : State) (c : Chan) (x : Option OrderSlot) (j : OrderSlot) : (s.setSucc c x).order j = s.order j := rfl
@[simp] theorem setSucc_hold (s : State) (c : Chan) (x : Option OrderSlot) (i : HoldSlot) : (s.setSucc c x).hold i = s.hold i := rfl

@[simp] theorem setOrder_chan (s : State) (k : OrderSlot) (o : Order) (d : Chan) : (s.setOrder k o).chan d = s.chan d := rfl
@[simp] theorem setOrder_cfg (s : State) (k : OrderSlot) (o : Order) (d : Chan) : (s.setOrder k o).cfg d = s.cfg d := rfl
@[simp] theorem setOrder_asm (s : State) (k : OrderSlot) (o : Order) (b : Asm) : (s.setOrder k o).asm b = s.asm b := rfl
@[simp] theorem setOrder_asmCfg (s : State) (k : OrderSlot) (o : Order) (b : Asm) : (s.setOrder k o).asmCfg b = s.asmCfg b := rfl
@[simp] theorem setOrder_asmOf (s : State) (k : OrderSlot) (o : Order) (d : Chan) : (s.setOrder k o).asmOf d = s.asmOf d := rfl
@[simp] theorem setOrder_hold (s : State) (k : OrderSlot) (o : Order) (i : HoldSlot) : (s.setOrder k o).hold i = s.hold i := rfl

@[simp] theorem freeOrder_chan (s : State) (k : OrderSlot) (d : Chan) : (s.freeOrder k).chan d = s.chan d := rfl
@[simp] theorem freeOrder_cfg (s : State) (k : OrderSlot) (d : Chan) : (s.freeOrder k).cfg d = s.cfg d := rfl
@[simp] theorem freeOrder_asm (s : State) (k : OrderSlot) (b : Asm) : (s.freeOrder k).asm b = s.asm b := rfl
@[simp] theorem freeOrder_asmCfg (s : State) (k : OrderSlot) (b : Asm) : (s.freeOrder k).asmCfg b = s.asmCfg b := rfl
@[simp] theorem freeOrder_asmOf (s : State) (k : OrderSlot) (d : Chan) : (s.freeOrder k).asmOf d = s.asmOf d := rfl
@[simp] theorem freeOrder_hold (s : State) (k : OrderSlot) (i : HoldSlot) : (s.freeOrder k).hold i = s.hold i := rfl

@[simp] theorem setHold_chan (s : State) (h : HoldSlot) (x : Hold) (d : Chan) : (s.setHold h x).chan d = s.chan d := rfl
@[simp] theorem setHold_cfg (s : State) (h : HoldSlot) (x : Hold) (d : Chan) : (s.setHold h x).cfg d = s.cfg d := rfl
@[simp] theorem setHold_asm (s : State) (h : HoldSlot) (x : Hold) (b : Asm) : (s.setHold h x).asm b = s.asm b := rfl
@[simp] theorem setHold_asmCfg (s : State) (h : HoldSlot) (x : Hold) (b : Asm) : (s.setHold h x).asmCfg b = s.asmCfg b := rfl
@[simp] theorem setHold_asmOf (s : State) (h : HoldSlot) (x : Hold) (d : Chan) : (s.setHold h x).asmOf d = s.asmOf d := rfl
@[simp] theorem setHold_order (s : State) (h : HoldSlot) (x : Hold) (j : OrderSlot) : (s.setHold h x).order j = s.order j := rfl

@[simp] theorem freeHold_chan (s : State) (h : HoldSlot) (d : Chan) : (s.freeHold h).chan d = s.chan d := rfl
@[simp] theorem freeHold_cfg (s : State) (h : HoldSlot) (d : Chan) : (s.freeHold h).cfg d = s.cfg d := rfl
@[simp] theorem freeHold_asm (s : State) (h : HoldSlot) (b : Asm) : (s.freeHold h).asm b = s.asm b := rfl
@[simp] theorem freeHold_asmCfg (s : State) (h : HoldSlot) (b : Asm) : (s.freeHold h).asmCfg b = s.asmCfg b := rfl
@[simp] theorem freeHold_asmOf (s : State) (h : HoldSlot) (d : Chan) : (s.freeHold h).asmOf d = s.asmOf d := rfl
@[simp] theorem freeHold_order (s : State) (h : HoldSlot) (j : OrderSlot) : (s.freeHold h).order j = s.order j := rfl

@[simp] theorem raise_chan (s : State) (f : Flag) (d : Chan) : (raise f s).chan d = s.chan d := rfl
@[simp] theorem raise_cfg (s : State) (f : Flag) (d : Chan) : (raise f s).cfg d = s.cfg d := rfl
@[simp] theorem raise_asm (s : State) (f : Flag) (b : Asm) : (raise f s).asm b = s.asm b := rfl
@[simp] theorem raise_asmCfg (s : State) (f : Flag) (b : Asm) : (raise f s).asmCfg b = s.asmCfg b := rfl
@[simp] theorem raise_asmOf (s : State) (f : Flag) (d : Chan) : (raise f s).asmOf d = s.asmOf d := rfl
@[simp] theorem raise_order (s : State) (f : Flag) (j : OrderSlot) : (raise f s).order j = s.order j := rfl
@[simp] theorem raise_hold (s : State) (f : Flag) (i : HoldSlot) : (raise f s).hold i = s.hold i := rfl

@[simp] theorem send_chan (s : State) (m : Msg) (d : Chan) : (send m s).chan d = s.chan d := rfl
@[simp] theorem send_cfg (s : State) (m : Msg) (d : Chan) : (send m s).cfg d = s.cfg d := rfl
@[simp] theorem send_asm (s : State) (m : Msg) (b : Asm) : (send m s).asm b = s.asm b := rfl
@[simp] theorem send_asmCfg (s : State) (m : Msg) (b : Asm) : (send m s).asmCfg b = s.asmCfg b := rfl
@[simp] theorem send_asmOf (s : State) (m : Msg) (d : Chan) : (send m s).asmOf d = s.asmOf d := rfl
@[simp] theorem send_order (s : State) (m : Msg) (j : OrderSlot) : (send m s).order j = s.order j := rfl
@[simp] theorem send_hold (s : State) (m : Msg) (i : HoldSlot) : (send m s).hold i = s.hold i := rfl

@[simp] theorem sendAll_chan (s : State) (ms : List Msg) (d : Chan) : (sendAll ms s).chan d = s.chan d := rfl
@[simp] theorem sendAll_cfg (s : State) (ms : List Msg) (d : Chan) : (sendAll ms s).cfg d = s.cfg d := rfl
@[simp] theorem sendAll_asm (s : State) (ms : List Msg) (b : Asm) : (sendAll ms s).asm b = s.asm b := rfl
@[simp] theorem sendAll_asmCfg (s : State) (ms : List Msg) (b : Asm) : (sendAll ms s).asmCfg b = s.asmCfg b := rfl
@[simp] theorem sendAll_asmOf (s : State) (ms : List Msg) (d : Chan) : (sendAll ms s).asmOf d = s.asmOf d := rfl
@[simp] theorem sendAll_order (s : State) (ms : List Msg) (j : OrderSlot) : (sendAll ms s).order j = s.order j := rfl
@[simp] theorem sendAll_hold (s : State) (ms : List Msg) (i : HoldSlot) : (sendAll ms s).hold i = s.hold i := rfl

@[simp] theorem unsend_chan (s : State) (m : Msg) (d : Chan) : (s.unsend m).chan d = s.chan d := rfl
@[simp] theorem unsend_cfg (s : State) (m : Msg) (d : Chan) : (s.unsend m).cfg d = s.cfg d := rfl
@[simp] theorem unsend_asm (s : State) (m : Msg) (b : Asm) : (s.unsend m).asm b = s.asm b := rfl
@[simp] theorem unsend_asmCfg (s : State) (m : Msg) (b : Asm) : (s.unsend m).asmCfg b = s.asmCfg b := rfl
@[simp] theorem unsend_asmOf (s : State) (m : Msg) (d : Chan) : (s.unsend m).asmOf d = s.asmOf d := rfl
@[simp] theorem unsend_order (s : State) (m : Msg) (j : OrderSlot) : (s.unsend m).order j = s.order j := rfl
@[simp] theorem unsend_hold (s : State) (m : Msg) (i : HoldSlot) : (s.unsend m).hold i = s.hold i := rfl

@[simp] theorem wantReconsider_chan (s : State) (d : Chan) : (wantReconsider s).chan d = s.chan d := rfl
@[simp] theorem wantReconsider_cfg (s : State) (d : Chan) : (wantReconsider s).cfg d = s.cfg d := rfl
@[simp] theorem wantReconsider_asm (s : State) (b : Asm) : (wantReconsider s).asm b = s.asm b := rfl
@[simp] theorem wantReconsider_asmCfg (s : State) (b : Asm) : (wantReconsider s).asmCfg b = s.asmCfg b := rfl
@[simp] theorem wantReconsider_asmOf (s : State) (d : Chan) : (wantReconsider s).asmOf d = s.asmOf d := rfl
@[simp] theorem wantReconsider_order (s : State) (j : OrderSlot) : (wantReconsider s).order j = s.order j := rfl
@[simp] theorem wantReconsider_hold (s : State) (i : HoldSlot) : (wantReconsider s).hold i = s.hold i := rfl

@[simp] theorem setLatch_chan (s : State) (a : Asm) (k : FaultKind) (d : Chan) : (setLatch a k s).chan d = s.chan d := rfl
@[simp] theorem setLatch_cfg (s : State) (a : Asm) (k : FaultKind) (d : Chan) : (setLatch a k s).cfg d = s.cfg d := rfl
@[simp] theorem setLatch_asm (s : State) (a : Asm) (k : FaultKind) (b : Asm) : (setLatch a k s).asm b = s.asm b := rfl
@[simp] theorem setLatch_asmCfg (s : State) (a : Asm) (k : FaultKind) (b : Asm) : (setLatch a k s).asmCfg b = s.asmCfg b := rfl
@[simp] theorem setLatch_asmOf (s : State) (a : Asm) (k : FaultKind) (d : Chan) : (setLatch a k s).asmOf d = s.asmOf d := rfl
@[simp] theorem setLatch_order (s : State) (a : Asm) (k : FaultKind) (j : OrderSlot) : (setLatch a k s).order j = s.order j := rfl
@[simp] theorem setLatch_hold (s : State) (a : Asm) (k : FaultKind) (i : HoldSlot) : (setLatch a k s).hold i = s.hold i := rfl

@[simp] theorem setChan_chan_same (s : State) (c : Chan) (x : Channel) : (s.setChan c x).chan c = x := by
  simp [State.setChan, State.chan]

theorem setChan_chan_other (s : State) {c d : Chan} (x : Channel) (h : d ≠ c) : (s.setChan c x).chan d = s.chan d := by
  simp [State.setChan, State.chan, Fin.val_inj, Ne.symm h]

@[simp] theorem setChan_chan (s : State) (c : Chan) : s.setChan c (s.chan c) = s := by
  simp [State.setChan, State.chan]

theorem setChan_setChan (s : State) (c : Chan) (x y : Channel) : (s.setChan c x).setChan c y = s.setChan c y := by
  simp [State.setChan]

@[simp] theorem setAsm_asm_same (s : State) (a : Asm) (x : AsmLive) : (s.setAsm a x).asm a = x := by
  simp [State.setAsm, State.asm]

theorem setAsm_asm_other (s : State) {a b : Asm} (x : AsmLive) (h : b ≠ a) : (s.setAsm a x).asm b = s.asm b := by
  simp [State.setAsm, State.asm, Fin.val_inj, Ne.symm h]

@[simp] theorem setClaim_claim_same (s : State) (c : Chan) (x : Option OrderSlot) : (s.setClaim c x).claims[c] = x := by
  simp [State.setClaim]

theorem setClaim_claim_other (s : State) {c d : Chan} (x : Option OrderSlot) (h : d ≠ c) :
    (s.setClaim c x).claims[d] = s.claims[d] := by
  simp [State.setClaim, Fin.val_inj, Ne.symm h]

@[simp] theorem setSucc_succ_same (s : State) (c : Chan) (x : Option OrderSlot) : (s.setSucc c x).succs[c] = x := by
  simp [State.setSucc]

theorem setSucc_succ_other (s : State) {c d : Chan} (x : Option OrderSlot) (h : d ≠ c) :
    (s.setSucc c x).succs[d] = s.succs[d] := by
  simp [State.setSucc, Fin.val_inj, Ne.symm h]

@[simp] theorem setOrder_order_same (s : State) (k : OrderSlot) (o : Order) : (s.setOrder k o).order k = some o := by
  simp [State.setOrder, State.order]

theorem setOrder_order_other (s : State) {k j : OrderSlot} (o : Order) (h : j ≠ k) :
    (s.setOrder k o).order j = s.order j := by
  simp [State.setOrder, State.order, Fin.val_inj, Ne.symm h]

@[simp] theorem setOrder_gen (s : State) (k j : OrderSlot) (o : Order) :
    (s.setOrder k o).orders[j].gen = s.orders[j].gen := by
  by_cases h : k.val = j.val
  · obtain rfl : k = j := Fin.ext h
    simp [State.setOrder]
  · simp [State.setOrder, h]

@[simp] theorem setOrder_handle (s : State) (k j : OrderSlot) (o : Order) :
    (s.setOrder k o).orderHandle j = s.orderHandle j := by
  simp only [State.orderHandle, setOrder_gen]

@[simp] theorem freeOrder_order_same (s : State) (k : OrderSlot) : (s.freeOrder k).order k = none := by
  simp [State.freeOrder, State.order]

theorem freeOrder_order_other (s : State) {k j : OrderSlot} (h : j ≠ k) : (s.freeOrder k).order j = s.order j := by
  simp [State.freeOrder, State.order, Fin.val_inj, Ne.symm h]

@[simp] theorem setHold_hold_same (s : State) (h : HoldSlot) (x : Hold) : (s.setHold h x).hold h = some x := by
  simp [State.setHold, State.hold]

theorem setHold_hold_other (s : State) {h i : HoldSlot} (x : Hold) (n : i ≠ h) : (s.setHold h x).hold i = s.hold i := by
  simp [State.setHold, State.hold, Fin.val_inj, Ne.symm n]

@[simp] theorem setHold_gen (s : State) (h i : HoldSlot) (x : Hold) : (s.setHold h x).holds[i].gen = s.holds[i].gen := by
  by_cases n : h.val = i.val
  · obtain rfl : h = i := Fin.ext n
    simp [State.setHold]
  · simp [State.setHold, n]

@[simp] theorem setHold_handle (s : State) (h i : HoldSlot) (x : Hold) : (s.setHold h x).holdHandle i = s.holdHandle i := by
  simp only [State.holdHandle, setHold_gen]

@[simp] theorem freeHold_hold_same (s : State) (h : HoldSlot) : (s.freeHold h).hold h = none := by
  simp [State.freeHold, State.hold]

theorem freeHold_hold_other (s : State) {h i : HoldSlot} (n : i ≠ h) : (s.freeHold h).hold i = s.hold i := by
  simp [State.freeHold, State.hold, Fin.val_inj, Ne.symm n]

/-! ## The order of a slot, changed -/

theorem modOrder_none {s : State} {k : OrderSlot} (f : Order → Order) (h : s.order k = none) : s.modOrder k f = s := by
  simp [State.modOrder, h]

theorem modOrder_some {s : State} {k : OrderSlot} {o : Order} (f : Order → Order) (h : s.order k = some o) :
    s.modOrder k f = s.setOrder k (f o) := by
  simp [State.modOrder, h]

/-! ## The notice word -/

/-- R184: the flag that is raised is set. -/
@[simp] theorem raise_flag_same (s : State) (f : Flag) : (raise f s).flag f = true := by
  cases f <;> simp [State.flag, raise, Flag.bit, Flag.index]

/-- R184: raising a flag leaves the others. -/
theorem raise_flag_other (s : State) {f g : Flag} (h : g ≠ f) : (raise f s).flag g = s.flag g := by
  cases f <;> cases g <;> simp_all [State.flag, raise, Flag.bit, Flag.index]

/-- R184: no flag that is set is cleared by raising one. -/
theorem raise_flag_mono (s : State) (f g : Flag) (h : s.flag g = true) : (raise f s).flag g = true := by
  by_cases e : g = f
  · subst e; simp
  · rw [raise_flag_other s e]; exact h

/-! ## Handles -/

/-- R49: a hold handle that matches a slot and its generation finds the hold. -/
theorem findHold_some {s : State} {b : Byte} {h : HoldSlot} {x : Hold} (hv : h.val = b.toNat % 32)
    (hg : s.holds[h].gen = b.toNat / 32) (hx : s.hold h = some x) : s.findHold b = some h := by
  have e : (⟨b.toNat % 32, Nat.mod_lt _ (by decide)⟩ : HoldSlot) = h := Fin.ext hv.symm
  simp [State.findHold, e, hx]
  exact hg

/-- R49: a stale hold handle finds nothing. -/
theorem findHold_none {s : State} {b : Byte} {h : HoldSlot} (hv : h.val = b.toNat % 32)
    (hs : s.hold h = none ∨ s.holds[h].gen ≠ b.toNat / 32) : s.findHold b = none := by
  have e : (⟨b.toNat % 32, Nat.mod_lt _ (by decide)⟩ : HoldSlot) = h := Fin.ext hv.symm
  rcases hs with hs | hs
  · simp [State.findHold, e, hs]
  · simp [State.findHold, e]
    exact fun _ => hs

/-- R88: an order handle that matches a slot and its generation finds the order. -/
theorem findOrder_some {s : State} {b : Byte} {k : OrderSlot} {o : Order} (hv : k.val = b.toNat % 8)
    (hg : s.orders[k].gen = b.toNat / 8) (ho : s.order k = some o) : s.findOrder b = some k := by
  have e : (⟨b.toNat % 8, Nat.mod_lt _ (by decide)⟩ : OrderSlot) = k := Fin.ext hv.symm
  simp [State.findOrder, e, ho]
  exact hg

/-- R88: a stale order handle finds nothing. -/
theorem findOrder_none {s : State} {b : Byte} {k : OrderSlot} (hv : k.val = b.toNat % 8)
    (hs : s.order k = none ∨ s.orders[k].gen ≠ b.toNat / 8) : s.findOrder b = none := by
  have e : (⟨b.toNat % 8, Nat.mod_lt _ (by decide)⟩ : OrderSlot) = k := Fin.ext hv.symm
  rcases hs with hs | hs
  · simp [State.findOrder, e, hs]
  · simp [State.findOrder, e]
    exact fun _ => hs

end Sys2Proof.Laws
end

