-- ==== Sys2Proof/Laws/Memory.lean ====
section
/-! SUPPORT. The array's memory: every operation keeps its canonical form and its addresses, and what a read finds after
each (R153, R154). -/
namespace Sys2Proof.Laws
open Sys2Proof.Machine

/-! ## What a read finds -/

/-- An address below every listed one reads erased. -/
theorem read_below {m : Memory} {a : Nat} (h : ∀ x ∈ m, a < x.1) : m.read a = erasedByte := by
  induction m with
  | nil => rfl
  | cons x m ih =>
    have hx := h x (by simp)
    simp only [Memory.read]
    rw [if_neg (by omega)]
    exact ih fun y hy => h y (by simp [hy])

/-- The head of a canonical memory lies below the rest. -/
theorem wf_cons {k : Nat} {v : Byte} {m : Memory} (h : Memory.wf ((k, v) :: m) = true) :
    v ≠ erasedByte ∧ (∀ x ∈ m, k < x.1) ∧ m.wf = true := by
  simp only [Memory.wf, Bool.and_eq_true, decide_eq_true_eq, List.all_eq_true] at h
  exact ⟨h.1.1, h.1.2, h.2⟩

/-- A memory is canonical when its head is not erased, lies below the rest, and the rest is canonical. -/
theorem wf_of_cons {k : Nat} {v : Byte} {m : Memory} (hv : v ≠ erasedByte) (hk : ∀ x ∈ m, k < x.1) (hm : m.wf = true) :
    Memory.wf ((k, v) :: m) = true := by
  simp only [Memory.wf, Bool.and_eq_true, decide_eq_true_eq, List.all_eq_true]
  exact ⟨⟨hv, hk⟩, hm⟩

/-- One byte read after one byte written. -/
theorem read_put {m : Memory} (hm : m.wf = true) (a : Nat) (b : Byte) (x : Nat) :
    (m.put a b).read x = if x = a then b else m.read x := by
  induction m with
  | nil =>
    by_cases hb : b = erasedByte
    · subst hb
      by_cases hx : x = a <;> simp [Memory.put, Memory.read, hx]
    · by_cases hx : x = a
      · simp [Memory.put, Memory.read, hb, hx]
      · simp [Memory.put, Memory.read, hb, hx, Ne.symm hx]
  | cons y m ih =>
    obtain ⟨k, v⟩ := y
    obtain ⟨-, hk, hm⟩ := wf_cons hm
    have below : ∀ z, z < k → Memory.read ((k, v) :: m) z = erasedByte := fun z hz =>
      read_below fun w hw => by
        rcases List.mem_cons.1 hw with rfl | hw
        · exact hz
        · exact Nat.lt_trans hz (hk w hw)
    simp only [Memory.put]
    by_cases h1 : a < k
    · rw [if_pos h1]
      by_cases hb : b = erasedByte
      · rw [if_pos hb]
        by_cases hx : x = a
        · subst hx
          rw [if_pos rfl, below _ h1, hb]
        · rw [if_neg hx]
      · rw [if_neg hb]
        by_cases hx : x = a
        · subst hx
          simp [Memory.read]
        · rw [if_neg hx]
          simp only [Memory.read]
          rw [if_neg (Ne.symm hx)]
    · rw [if_neg h1]
      by_cases h2 : a = k
      · rw [if_pos h2]
        subst h2
        by_cases hb : b = erasedByte
        · rw [if_pos hb]
          by_cases hx : x = a
          · subst hx
            rw [if_pos rfl, read_below hk, hb]
          · rw [if_neg hx]
            simp only [Memory.read]
            rw [if_neg (Ne.symm hx)]
        · rw [if_neg hb]
          by_cases hx : x = a
          · subst hx
            simp [Memory.read]
          · rw [if_neg hx]
            simp only [Memory.read]
            rw [if_neg (Ne.symm hx), if_neg (Ne.symm hx)]
      · rw [if_neg h2]
        simp only [Memory.read]
        by_cases h3 : k = x
        · rw [if_pos h3, if_pos h3, if_neg (by omega)]
        · rw [if_neg h3, if_neg h3]
          exact ih hm

/-! ## The canonical form -/

/-- What a write lists is what was listed before, or the address written. -/
theorem mem_put {m : Memory} {a : Nat} {b : Byte} {x : Host.Cell} (h : x ∈ m.put a b) : x ∈ m ∨ x.1 = a := by
  induction m with
  | nil =>
    simp only [Memory.put] at h
    split at h
    · simp at h
    · simp only [List.mem_singleton] at h
      exact Or.inr (by rw [h])
  | cons y m ih =>
    obtain ⟨k, v⟩ := y
    simp only [Memory.put] at h
    split at h
    · split at h
      · exact Or.inl h
      · rcases List.mem_cons.1 h with h | h
        · exact Or.inr (by rw [h])
        · exact Or.inl h
    · split at h
      · split at h
        · exact Or.inl (List.mem_cons_of_mem _ h)
        · rcases List.mem_cons.1 h with h | h
          · exact Or.inr (by rw [h])
          · exact Or.inl (List.mem_cons_of_mem _ h)
      · rcases List.mem_cons.1 h with h | h
        · exact Or.inl (by rw [h]; exact List.mem_cons_self ..)
        · exact (ih h).imp (List.mem_cons_of_mem _) id

/-- A write keeps the canonical form. -/
theorem wf_put {m : Memory} (hm : m.wf = true) (a : Nat) (b : Byte) : (m.put a b).wf = true := by
  induction m with
  | nil =>
    simp only [Memory.put]
    split
    · rfl
    · rename_i hb
      exact wf_of_cons hb (by simp) rfl
  | cons y m ih =>
    obtain ⟨k, v⟩ := y
    have hw := hm
    obtain ⟨hv, hk, hm'⟩ := wf_cons hm
    simp only [Memory.put]
    split
    · rename_i h1
      split
      · exact hw
      · rename_i hb
        refine wf_of_cons hb (fun x hx => ?_) hw
        rcases List.mem_cons.1 hx with rfl | hx
        · exact h1
        · exact Nat.lt_trans h1 (hk x hx)
    · split
      · rename_i h2
        subst h2
        split
        · exact hm'
        · rename_i hb
          exact wf_of_cons hb hk hm'
      · refine wf_of_cons hv (fun x hx => ?_) (ih hm')
        rcases mem_put hx with hx | hx
        · exact hk x hx
        · omega

/-- A write within the array keeps every listed address in the array. -/
theorem inArray_put {m : Memory} (hm : m.inArray = true) {a : Nat} (ha : a < arraySize) (b : Byte) :
    (m.put a b).inArray = true := by
  simp only [Memory.inArray, List.all_eq_true, decide_eq_true_eq] at hm ⊢
  intro x hx
  rcases mem_put hx with hx | hx
  · exact hm x hx
  · omega

/-- R153: an erase keeps the canonical form. -/
theorem wf_erase {m : Memory} (hm : m.wf = true) (a n : Nat) : (m.erase a n).wf = true := by
  induction m with
  | nil => rfl
  | cons y m ih =>
    obtain ⟨k, v⟩ := y
    obtain ⟨hv, hk, hm⟩ := wf_cons hm
    have ih := ih hm
    simp only [Memory.erase, List.filter] at ih ⊢
    split
    · exact wf_of_cons hv (fun x hx => hk x (List.mem_filter.1 hx).1) ih
    · exact ih

/-- R153: an erase keeps every listed address in the array. -/
theorem inArray_erase {m : Memory} (hm : m.inArray = true) (a n : Nat) : (m.erase a n).inArray = true := by
  simp only [Memory.inArray, List.all_eq_true, decide_eq_true_eq] at hm ⊢
  exact fun x hx => hm x (List.mem_filter.1 hx).1

/-- R153: what a read finds after an erase. -/
theorem read_erase (m : Memory) (a n x : Nat) :
    (m.erase a n).read x = if a ≤ x ∧ x < a + n then erasedByte else m.read x := by
  induction m with
  | nil => by_cases h : a ≤ x ∧ x < a + n <;> simp [Memory.erase, Memory.read, h]
  | cons y m ih =>
    obtain ⟨k, v⟩ := y
    simp only [Memory.erase, List.filter] at ih ⊢
    by_cases hk : k < a ∨ a + n ≤ k
    · simp only [hk, decide_true, Memory.read]
      by_cases hx : k = x
      · rw [if_pos hx, if_neg (by omega), if_pos hx]
      · rw [if_neg hx, if_neg hx]
        exact ih
    · simp only [hk, decide_false, Memory.read]
      by_cases hx : k = x
      · rw [if_pos hx] at *
        rw [ih, if_pos (by omega), if_pos (by omega)]
      · rw [if_neg hx]
        exact ih

/-! ## Runs of bytes -/

/-- R153: a row program keeps the canonical form. -/
theorem wf_program {m : Memory} (hm : m.wf = true) (n a : Nat) (bs : List Byte) : (m.program n a bs).wf = true := by
  induction bs generalizing m a with
  | nil => exact hm
  | cons b bs ih => exact ih (wf_put hm _ _) _

/-- R153: a row program within the array keeps every listed address in the array. -/
theorem inArray_program {m : Memory} (hm : m.inArray = true) (n : Nat) {a : Nat} {bs : List Byte}
    (ha : a + bs.length ≤ arraySize) : (m.program n a bs).inArray = true := by
  induction bs generalizing m a with
  | nil => exact hm
  | cons b bs ih =>
    simp only [List.length_cons] at ha
    exact ih (inArray_put hm (by omega) _) (by omega)

/-- R153: a row program leaves every byte outside its row. -/
theorem read_program_outside {m : Memory} (hm : m.wf = true) (n : Nat) {a x : Nat} {bs : List Byte}
    (hx : x < a ∨ a + bs.length ≤ x) : (m.program n a bs).read x = m.read x := by
  induction bs generalizing m a with
  | nil => rfl
  | cons b bs ih =>
    simp only [List.length_cons] at hx
    rw [Memory.program, ih (wf_put hm _ _) (by omega), read_put hm, if_neg (by omega)]

/-- R153: a byte of a row that stood erased holds what was programmed. -/
theorem read_program_inside {m : Memory} (hm : m.wf = true) (n : Nat) {a : Nat} {bs : List Byte}
    (he : ∀ i, i < bs.length → m.read (a + i) = erasedByte) {i : Nat} (hi : i < bs.length) :
    (m.program n a bs).read (a + i) = bs[i] := by
  induction bs generalizing m a i with
  | nil => simp at hi
  | cons b bs ih =>
    have h0 : m.read a = erasedByte := by simpa using he 0 (by simp)
    cases i with
    | zero =>
      rw [Memory.program, read_program_outside (wf_put hm _ _) n (by omega), read_put hm]
      simp [programmedByte, h0]
    | succ i =>
      simp only [List.length_cons] at hi
      have key := ih (m := m.put a (programmedByte n a (m.read a) b)) (a := a + 1) (wf_put hm _ _)
        (fun j hj => by
          rw [read_put hm, if_neg (by omega)]
          have := he (j + 1) (by simp; omega)
          rwa [show a + 1 + j = a + (j + 1) by omega]) (i := i) (by omega)
      rw [Memory.program, show a + (i + 1) = a + 1 + i by omega, key]
      simp

/-- R154: an interrupted step keeps the canonical form. -/
theorem wf_interrupt {m : Memory} (hm : m.wf = true) (n a : Nat) (bs : List Byte) : (m.interrupt n a bs).wf = true := by
  induction bs generalizing m a with
  | nil => exact hm
  | cons b bs ih => exact ih (wf_put hm _ _) _

/-- R154: an interrupted step keeps every listed address in the array. -/
theorem inArray_interrupt {m : Memory} (hm : m.inArray = true) (n : Nat) {a : Nat} {bs : List Byte}
    (ha : a + bs.length ≤ arraySize) : (m.interrupt n a bs).inArray = true := by
  induction bs generalizing m a with
  | nil => exact hm
  | cons b bs ih =>
    simp only [List.length_cons] at ha
    exact ih (inArray_put hm (by omega) _) (by omega)

/-- R154: an interrupted step leaves every byte outside it. -/
theorem read_interrupt_outside {m : Memory} (hm : m.wf = true) (n : Nat) {a x : Nat} {bs : List Byte}
    (hx : x < a ∨ a + bs.length ≤ x) : (m.interrupt n a bs).read x = m.read x := by
  induction bs generalizing m a with
  | nil => rfl
  | cons b bs ih =>
    simp only [List.length_cons] at hx
    rw [Memory.interrupt, ih (wf_put hm _ _) (by omega), read_put hm, if_neg (by omega)]

/-- Flaws keep the canonical form. -/
theorem wf_flaw {m : Memory} (hm : m.wf = true) (a n : Nat) (xs : List Host.Cell) : (m.flaw a n xs).wf = true := by
  induction xs generalizing m with
  | nil => exact hm
  | cons x xs ih =>
    simp only [Memory.flaw]
    split
    · exact ih (wf_put hm _ _)
    · exact ih hm

/-- Flaws lie in the range of their step, so they keep every listed address in the array. -/
theorem inArray_flaw {m : Memory} (hm : m.inArray = true) {a n : Nat} (h : a + n ≤ arraySize) (xs : List Host.Cell) :
    (m.flaw a n xs).inArray = true := by
  induction xs generalizing m with
  | nil => exact hm
  | cons x xs ih =>
    simp only [Memory.flaw]
    split
    · rename_i hx
      exact ih (inArray_put hm (by omega) _)
    · exact ih hm

/-- Flaws leave every byte outside their range. -/
theorem read_flaw_outside {m : Memory} (hm : m.wf = true) {a n x : Nat} (hx : x < a ∨ a + n ≤ x) (xs : List Host.Cell) :
    (m.flaw a n xs).read x = m.read x := by
  induction xs generalizing m with
  | nil => rfl
  | cons y xs ih =>
    simp only [Memory.flaw]
    split
    · rw [ih (wf_put hm _ _), read_put hm, if_neg (by omega)]
    · exact ih hm

/-- Two canonical memories that read alike at every address are equal. -/
theorem memory_ext {m n : Memory} (hm : m.wf = true) (hn : n.wf = true) (h : ∀ a, m.read a = n.read a) : m = n := by
  induction m generalizing n with
  | nil =>
    cases n with
    | nil => rfl
    | cons y n =>
      obtain ⟨k, v⟩ := y
      have := h k
      simp only [Memory.read, if_pos] at this
      exact absurd this.symm (wf_cons hn).1
  | cons x m ih =>
    obtain ⟨j, u⟩ := x
    obtain ⟨hu, hj, hm'⟩ := wf_cons hm
    cases n with
    | nil =>
      have := h j
      simp only [Memory.read, if_pos] at this
      exact absurd this hu
    | cons y n =>
      obtain ⟨k, v⟩ := y
      obtain ⟨hv, hk, hn'⟩ := wf_cons hn
      have ejk : j = k := by
        rcases Nat.lt_trichotomy j k with l | e | l
        · have := h j
          simp only [Memory.read, if_pos] at this
          rw [if_neg (by omega), read_below fun w hw => Nat.lt_trans l (hk w hw)] at this
          exact absurd this hu
        · exact e
        · have := h k
          simp only [Memory.read, if_pos] at this
          rw [if_neg (by omega), read_below fun w hw => Nat.lt_trans l (hj w hw)] at this
          exact absurd this.symm hv
      subst ejk
      have euv : u = v := by
        have := h j
        simpa only [Memory.read, if_pos] using this
      subst euv
      rw [ih hm' hn' fun a => ?_]
      by_cases ha : j = a
      · subst ha
        rw [read_below hj, read_below hk]
      · have := h a
        simp only [Memory.read] at this
        rwa [if_neg ha, if_neg ha] at this

/-- The bytes read from a run of addresses, one by one. -/
theorem readList_length (m : Memory) (a n : Nat) : (m.readList a n).length = n := by
  induction n generalizing a with
  | zero => rfl
  | succ n ih => simp [Memory.readList, ih]

theorem readList_get (m : Memory) (a n : Nat) {i : Nat} (h : i < n) : (m.readList a n)[i]? = some (m.read (a + i)) := by
  induction n generalizing a i with
  | zero => omega
  | succ n ih =>
    cases i with
    | zero => simp [Memory.readList]
    | succ i =>
      simp only [Memory.readList, List.getElem?_cons_succ]
      rw [ih (a + 1) (by omega), show a + 1 + i = a + (i + 1) by omega]

end Sys2Proof.Laws
end

