-- ==== Sys2Proof/Laws/Relations.lean ====
section
/-! SUPPORT. What an operation may change, as relations between the state before and after: `Evaluated` for evaluations of
holds, `Handed` for what is handed on from a channel, `Ran` for everything that happens between resets and setup changes.
Each is reflexive and transitive, and the laws of an operation are one such relation. -/
namespace Sys2Proof.Laws
open Sys2Proof.Machine

/-! ## Folds -/

/-- What every round keeps, the whole run keeps. -/
theorem forAll_keeps {α : Type} {P : State → Prop} {f : α → State → State} {xs : List α} {s : State} (h0 : P s)
    (h : ∀ x ∈ xs, ∀ s, P s → P (f x s)) : P (forAll xs f s) := by
  induction xs generalizing s with
  | nil => exact h0
  | cons x xs ih =>
    exact ih (s := f x s) (h x (List.mem_cons_self ..) s h0) fun y hy => h y (List.mem_cons_of_mem _ hy)

theorem forAll_nil {α : Type} (f : α → State → State) (s : State) : forAll [] f s = s := rfl

theorem forAll_cons {α : Type} (x : α) (xs : List α) (f : α → State → State) (s : State) :
    forAll (x :: xs) f s = forAll xs f (f x s) := rfl

/-! ## The parts of the invariant that run-time operations touch -/

/-- What the invariant says of the hold table. -/
structure HoldsSound (s : State) : Prop where
  gens   : ∀ h : HoldSlot, s.holds[h].gen < 8
  place  : HoldPlacement s
  unique : MonitorHoldsUnique s
  fits   : MonitorHoldsFit s

/-- What the invariant says of the order table. -/
structure OrdersSound (s : State) : Prop where
  gens  : ∀ k : OrderSlot, s.orders[k].gen < 32
  place : OrderPlacement s

theorem Inv.holdsSound {s : State} (h : Inv s) : HoldsSound s :=
  ⟨h.generations.1, h.holds, h.unique, h.fits⟩

theorem Inv.ordersSound {s : State} (h : Inv s) : OrdersSound s := ⟨h.generations.2, h.orders⟩

theorem inv_of {s : State} (array : ArraySound s) (step : StepInRange s) (staging : StagingSize s) (holds : HoldsSound s)
    (orders : OrdersSound s) (members : MembersAgree s) (between : s.reconsider = false) : Inv s :=
  ⟨array, step, staging, ⟨holds.gens, orders.gens⟩, holds.place, holds.unique, holds.fits, orders.place, members, between⟩

/-- The setup alone decides whether the members agree. -/
theorem MembersAgree.of_eq {s t : State} (e : t.setup = s.setup) (h : MembersAgree s) : MembersAgree t := fun c => by
  simp only [State.cfg, e]
  exact h c

/-- The hold table alone decides its soundness. -/
theorem HoldsSound.of_eq {s t : State} (e : t.holds = s.holds) (h : HoldsSound s) : HoldsSound t := by
  have eh : ∀ i, t.hold i = s.hold i := fun i => by simp only [State.hold, e]
  refine ⟨fun i => by rw [e]; exact h.gens i, fun i x hx => h.place i x (by rw [← eh]; exact hx), ?_, ?_⟩
  · intro i j x y hi hj hx hy
    exact h.unique i j x y hi hj (by rw [← eh]; exact hx) (by rw [← eh]; exact hy)
  · intro i x hx
    exact h.fits i x (by rw [← eh]; exact hx)

/-- The order table alone decides its soundness. -/
theorem OrdersSound.of_eq {s t : State} (e : t.orders = s.orders) (h : OrdersSound s) : OrdersSound t := by
  have eo : ∀ k, t.order k = s.order k := fun k => by simp only [State.order, e]
  exact ⟨fun k => by rw [e]; exact h.gens k, fun k o ho => h.place k o (by rw [← eo]; exact ho)⟩

/-! ## Evaluations -/

/-- What an evaluation of holds may change: the hold table, the fault latches, the notice word, messages. -/
structure Evaluated (s t : State) : Prop where
  body  : SameBody s t
  port  : t.port = { s.port with word := t.port.word }
  mon   : t.mon = { s.mon with latches := t.mon.latches }
  holds : HoldsSound s → HoldsSound t

theorem SameBody.refl (s : State) : SameBody s s :=
  ⟨rfl, rfl, rfl, rfl, rfl, rfl, rfl, rfl, rfl, rfl, rfl, rfl, rfl⟩

theorem SameBody.trans {s t u : State} (h : SameBody s t) (g : SameBody t u) : SameBody s u :=
  ⟨g.setup.trans h.setup, g.channels.trans h.channels, g.claims.trans h.claims, g.succs.trans h.succs,
    g.asms.trans h.asms, g.orders.trans h.orders, g.tilt.trans h.tilt, g.lev.trans h.lev, g.store.trans h.store,
    g.nv.trans h.nv, g.pins.trans h.pins, g.sys.trans h.sys, g.pending.trans h.pending⟩

theorem Evaluated.refl (s : State) : Evaluated s s := ⟨SameBody.refl s, rfl, rfl, id⟩

theorem Evaluated.trans {s t u : State} (h : Evaluated s t) (g : Evaluated t u) : Evaluated s u :=
  ⟨SameBody.trans h.body g.body, by rw [g.port, h.port], by rw [g.mon, h.mon], fun x => g.holds (h.holds x)⟩

/-- An operation that changes at most the notice word, messages and the wish to reconsider. -/
theorem Evaluated.of_quiet {s t : State} (body : SameBody s t) (port : t.port = { s.port with word := t.port.word })
    (mon : t.mon = s.mon) (holds : t.holds = s.holds) : Evaluated s t :=
  ⟨body, port, by rw [mon], HoldsSound.of_eq holds⟩

theorem Evaluated.forAll {α : Type} {f : α → State → State} {xs : List α} {s : State}
    (h : ∀ x ∈ xs, ∀ s, Evaluated s (f x s)) : Evaluated s (forAll xs f s) :=
  forAll_keeps (Evaluated.refl s) fun x hx t ht => ht.trans (h x hx t)

/-! ## What is handed on -/

/-- What handing a channel's change on may change: assemblies, the stance state, and what an evaluation may. -/
structure Handed (s t : State) : Prop where
  setup    : t.setup = s.setup
  channels : t.channels = s.channels
  claims   : t.claims = s.claims
  succs    : t.succs = s.succs
  orders   : t.orders = s.orders
  tilt     : t.tilt = s.tilt
  lev      : t.lev = { s.lev with stance := t.lev.stance }
  store    : t.store = s.store
  nv       : t.nv = s.nv
  pins     : t.pins = s.pins
  sys      : t.sys = s.sys
  pending  : t.pending = s.pending
  port     : t.port = { s.port with word := t.port.word }
  mon      : t.mon = { s.mon with latches := t.mon.latches }
  holds    : HoldsSound s → HoldsSound t

theorem Handed.refl (s : State) : Handed s s := ⟨rfl, rfl, rfl, rfl, rfl, rfl, rfl, rfl, rfl, rfl, rfl, rfl, rfl, rfl, id⟩

theorem Handed.trans {s t u : State} (h : Handed s t) (g : Handed t u) : Handed s u :=
  ⟨g.setup.trans h.setup, g.channels.trans h.channels, g.claims.trans h.claims, g.succs.trans h.succs,
    g.orders.trans h.orders, g.tilt.trans h.tilt, by rw [g.lev, h.lev], g.store.trans h.store, g.nv.trans h.nv,
    g.pins.trans h.pins, g.sys.trans h.sys, g.pending.trans h.pending, by rw [g.port, h.port], by rw [g.mon, h.mon],
    fun x => g.holds (h.holds x)⟩

theorem Evaluated.handed {s t : State} (h : Evaluated s t) : Handed s t :=
  ⟨h.body.setup, h.body.channels, h.body.claims, h.body.succs, h.body.orders, h.body.tilt, by rw [h.body.lev],
    h.body.store, h.body.nv, h.body.pins, h.body.sys, h.body.pending, h.port, h.mon, h.holds⟩

theorem Handed.forAll {α : Type} {f : α → State → State} {xs : List α} {s : State}
    (h : ∀ x ∈ xs, ∀ s, Handed s (f x s)) : Handed s (forAll xs f s) :=
  forAll_keeps (Handed.refl s) fun x hx t ht => ht.trans (h x hx t)

/-! ## What runs -/

/-- What anything that runs may change: not the setup, the array, the pins, the tilt meter, the part, the staging buffer
or the port's mask and frame; and it keeps the hold table, the order table and the store's step sound. -/
structure Ran (s t : State) : Prop where
  setup   : t.setup = s.setup
  tilt    : t.tilt = s.tilt
  nv      : t.nv = s.nv
  pins    : t.pins = s.pins
  sys     : t.sys = s.sys
  pending : t.pending = s.pending
  staging : t.store.staging = s.store.staging
  port    : t.port = { s.port with word := t.port.word }
  steps   : StepInRange s → StepInRange t
  holds   : HoldsSound s → HoldsSound t
  orders  : OrdersSound s → OrdersSound t

theorem Ran.refl (s : State) : Ran s s := ⟨rfl, rfl, rfl, rfl, rfl, rfl, rfl, rfl, id, id, id⟩

theorem Ran.trans {s t u : State} (h : Ran s t) (g : Ran t u) : Ran s u :=
  ⟨g.setup.trans h.setup, g.tilt.trans h.tilt, g.nv.trans h.nv, g.pins.trans h.pins, g.sys.trans h.sys,
    g.pending.trans h.pending, g.staging.trans h.staging, by rw [g.port, h.port], fun x => g.steps (h.steps x),
    fun x => g.holds (h.holds x), fun x => g.orders (h.orders x)⟩

/-- An operation that leaves the store's operation, the holds and the orders alone. -/
theorem Ran.of_same {s t : State} (setup : t.setup = s.setup) (tilt : t.tilt = s.tilt) (nv : t.nv = s.nv)
    (pins : t.pins = s.pins) (sys : t.sys = s.sys) (pending : t.pending = s.pending)
    (staging : t.store.staging = s.store.staging) (port : t.port = { s.port with word := t.port.word })
    (op : t.store.op = s.store.op) (holds : t.holds = s.holds) (orders : t.orders = s.orders) : Ran s t :=
  ⟨setup, tilt, nv, pins, sys, pending, staging, port, fun h o ho => h o (by rw [← op]; exact ho), HoldsSound.of_eq holds,
    OrdersSound.of_eq orders⟩

theorem Handed.ran {s t : State} (h : Handed s t) : Ran s t :=
  ⟨h.setup, h.tilt, h.nv, h.pins, h.sys, h.pending, by rw [h.store], h.port,
    fun g o ho => g o (by rw [← h.store]; exact ho), h.holds, OrdersSound.of_eq h.orders⟩

theorem Evaluated.ran {s t : State} (h : Evaluated s t) : Ran s t := h.handed.ran

theorem Ran.forAll {α : Type} {f : α → State → State} {xs : List α} {s : State} (h : ∀ x ∈ xs, ∀ s, Ran s (f x s)) :
    Ran s (forAll xs f s) :=
  forAll_keeps (Ran.refl s) fun x hx t ht => ht.trans (h x hx t)

/-- What runs keeps the invariant, once the wish to reconsider is settled. -/
theorem Ran.inv {s t : State} (h : Ran s t) (i : Inv s) (b : t.reconsider = false) : Inv t :=
  inv_of (by rw [ArraySound, h.nv]; exact i.array) (h.steps i.step) (by rw [StagingSize, h.staging]; exact i.staging)
    (h.holds (Inv.holdsSound i)) (h.orders (Inv.ordersSound i)) (MembersAgree.of_eq h.setup i.members) b

/-! ## The order table under updates -/

/-- An order of the slot's own owner is written. -/
theorem OrdersSound.setOrder {s : State} (h : OrdersSound s) {k : OrderSlot} {o : Order}
    (ho : o.owner = .monitor ↔ 6 ≤ k.val) : OrdersSound (s.setOrder k o) := by
  refine ⟨fun j => by rw [setOrder_gen]; exact h.gens j, fun j u hu => ?_⟩
  by_cases e : j = k
  · subst e
    rw [setOrder_order_same] at hu
    cases hu
    exact ho
  · rw [setOrder_order_other s o e] at hu
    exact h.place j u hu

theorem OrdersSound.freeOrder {s : State} (h : OrdersSound s) (k : OrderSlot) : OrdersSound (s.freeOrder k) := by
  refine ⟨fun j => ?_, fun j u hu => ?_⟩
  · by_cases e : k.val = j.val
    · obtain rfl : k = j := Fin.ext e
      simp only [freeOrder_orders, Fin.getElem_fin, Vector.getElem_set_self]
      exact Nat.mod_lt _ (by decide)
    · have := h.gens j
      simp only [freeOrder_orders, Fin.getElem_fin] at this ⊢
      rw [Vector.getElem_set_ne _ _ e]
      exact this
  · by_cases e : j = k
    · subst e
      rw [freeOrder_order_same] at hu
      cases hu
    · rw [freeOrder_order_other s e] at hu
      exact h.place j u hu

theorem Ran.of_orders {s t : State} {os : Vector OrderCell 8} (e : t = { s with orders := os })
    (h : OrdersSound s → OrdersSound t) : Ran s t := by
  subst e
  exact ⟨rfl, rfl, rfl, rfl, rfl, rfl, rfl, rfl, id, HoldsSound.of_eq rfl, h⟩

/-- The order of a slot is written anew with the owner of one that stood there. -/
theorem Ran.setOrder {s t : State} (h : Ran s t) {k : OrderSlot} {o u : Order} (ho : s.order k = some o)
    (hu : u.owner = o.owner) : Ran s (t.setOrder k u) :=
  ⟨h.setup, h.tilt, h.nv, h.pins, h.sys, h.pending, h.staging, h.port, h.steps,
    fun g => HoldsSound.of_eq (s := t) rfl (h.holds g),
    fun g => OrdersSound.setOrder (h.orders g) (by rw [hu]; exact g.place k o ho)⟩

theorem ran_modOrder (s : State) (k : OrderSlot) (f : Order → Order) (hf : ∀ o, (f o).owner = o.owner) :
    Ran s (s.modOrder k f) := by
  cases e : s.order k with
  | none => rw [modOrder_none f e]; exact Ran.refl s
  | some o => rw [modOrder_some f e]; exact (Ran.refl s).setOrder e (hf o)

theorem ran_freeOrder (s : State) (k : OrderSlot) : Ran s (s.freeOrder k) :=
  Ran.of_orders rfl fun h => h.freeOrder k

end Sys2Proof.Laws
end

