-- ==== Sys2Proof/Laws/Evaluations.lean ====
section
/-! SUPPORT. The hold table and the monitor unit: every operation is an evaluation in the sense of `Evaluated`, and what the
searches of the table find (chapters 3 and 4). -/
namespace Sys2Proof.Laws
open Sys2Proof.Machine

/-! ## Small updates -/

theorem evaluated_raise (f : Flag) (s : State) : Evaluated s (raise f s) :=
  Evaluated.of_quiet ⟨rfl, rfl, rfl, rfl, rfl, rfl, rfl, rfl, rfl, rfl, rfl, rfl, rfl⟩ rfl rfl rfl

theorem evaluated_raiseIf (b : Bool) (f : Flag) (s : State) : Evaluated s (raiseIf b f s) := by
  cases b
  · exact Evaluated.refl s
  · exact evaluated_raise f s

theorem evaluated_send (m : Msg) (s : State) : Evaluated s (send m s) :=
  Evaluated.of_quiet ⟨rfl, rfl, rfl, rfl, rfl, rfl, rfl, rfl, rfl, rfl, rfl, rfl, rfl⟩ rfl rfl rfl

theorem evaluated_sendAll (ms : List Msg) (s : State) : Evaluated s (sendAll ms s) :=
  Evaluated.of_quiet ⟨rfl, rfl, rfl, rfl, rfl, rfl, rfl, rfl, rfl, rfl, rfl, rfl, rfl⟩ rfl rfl rfl

theorem evaluated_unsend (m : Msg) (s : State) : Evaluated s (s.unsend m) :=
  Evaluated.of_quiet ⟨rfl, rfl, rfl, rfl, rfl, rfl, rfl, rfl, rfl, rfl, rfl, rfl, rfl⟩ rfl rfl rfl

theorem evaluated_wantReconsider (s : State) : Evaluated s (wantReconsider s) :=
  Evaluated.of_quiet ⟨rfl, rfl, rfl, rfl, rfl, rfl, rfl, rfl, rfl, rfl, rfl, rfl, rfl⟩ rfl rfl rfl

theorem evaluated_setLatch (a : Asm) (k : FaultKind) (s : State) : Evaluated s (setLatch a k s) :=
  ⟨⟨rfl, rfl, rfl, rfl, rfl, rfl, rfl, rfl, rfl, rfl, rfl, rfl, rfl⟩, rfl, rfl, HoldsSound.of_eq rfl⟩

theorem evaluated_stopMotion (slot : HoldSlot) (h : Hold) (gained : BitVec 8) (s : State) :
    Evaluated s (stopMotion slot h gained s) :=
  evaluated_sendAll _ s

theorem Evaluated.of_holds {s t : State} {hs : Vector HoldCell 32} (e : t = { s with holds := hs })
    (h : HoldsSound s → HoldsSound t) : Evaluated s t := by
  subst e
  exact ⟨⟨rfl, rfl, rfl, rfl, rfl, rfl, rfl, rfl, rfl, rfl, rfl, rfl, rfl⟩, rfl, rfl, h⟩

/-! ## What a search finds -/

/-- R48: the monitor slots are the slots 0 to 19. -/
theorem mem_monitorHolds {h : HoldSlot} : h ∈ monitorHolds ↔ h.val < 20 := by revert h; decide

/-- R48: the party slots are the slots 20 to 31. -/
theorem mem_partyHolds {h : HoldSlot} : h ∈ partyHolds ↔ 20 ≤ h.val := by revert h; decide

theorem mem_allHolds (h : HoldSlot) : h ∈ allHolds := by revert h; decide

theorem freeHoldSlot_some {s : State} {range : List HoldSlot} {h : HoldSlot} (e : s.freeHoldSlot range = some h) :
    h ∈ range ∧ s.hold h = none := by
  refine ⟨List.mem_of_find?_eq_some e, ?_⟩
  have := List.find?_some e
  simpa using this

/-- R48: the monitor hold of a cause and subject is found in a monitor slot. -/
theorem monitorHold_some {s : State} {cause : Cause} {subject : Option Nat} {h : HoldSlot}
    (e : s.monitorHold cause subject = some h) :
    h.val < 20 ∧ ∃ x, s.hold h = some x ∧ x.cause = cause ∧ x.subject = subject := by
  refine ⟨mem_monitorHolds.1 (List.mem_of_find?_eq_some e), ?_⟩
  have := List.find?_some e
  split at this
  · rename_i x hx
    simp only [decide_eq_true_eq] at this
    exact ⟨x, hx, this⟩
  · cases this

/-- R48: no monitor slot holds a cause and subject that the search does not find. -/
theorem monitorHold_none {s : State} {cause : Cause} {subject : Option Nat} (e : s.monitorHold cause subject = none)
    {h : HoldSlot} {x : Hold} (hv : h.val < 20) (hx : s.hold h = some x) : ¬(x.cause = cause ∧ x.subject = subject) := by
  have := List.find?_eq_none.1 e h (mem_monitorHolds.2 hv)
  simpa [hx] using this

/-- R48: with the table sound, the search finds the one hold of a cause and subject. -/
theorem monitorHold_eq {s : State} (i : HoldsSound s) {h : HoldSlot} {x : Hold} (hv : h.val < 20)
    (hx : s.hold h = some x) : s.monitorHold x.cause x.subject = some h := by
  cases e : s.monitorHold x.cause x.subject with
  | none => exact absurd ⟨rfl, rfl⟩ (monitorHold_none e hv hx)
  | some j =>
    obtain ⟨jv, y, hy, c, d⟩ := monitorHold_some e
    rw [i.unique j h y x jv hv hy hx c d]

/-! ## Writing a hold -/

/-- A hold that stands is written anew with the same owner, cause, subject, blocks, style and latch. -/
theorem HoldsSound.setHold_again {s : State} (i : HoldsSound s) {h : HoldSlot} {x y : Hold} (hx : s.hold h = some x)
    (ow : y.owner = x.owner) (ca : y.cause = x.cause) (su : y.subject = x.subject) (bl : y.blocks = x.blocks)
    (st : y.style = x.style) (la : y.latched = x.latched) : HoldsSound (s.setHold h y) := by
  have key : ∀ j z, (s.setHold h y).hold j = some z → ∃ w, s.hold j = some w ∧ z.owner = w.owner ∧ z.cause = w.cause ∧
      z.subject = w.subject ∧ z.blocks = w.blocks ∧ z.style = w.style ∧ z.latched = w.latched := by
    intro j z hz
    by_cases e : j = h
    · subst e
      rw [setHold_hold_same] at hz
      cases hz
      exact ⟨x, hx, ow, ca, su, bl, st, la⟩
    · rw [setHold_hold_other s y e] at hz
      exact ⟨z, hz, rfl, rfl, rfl, rfl, rfl, rfl⟩
  refine ⟨fun j => by rw [setHold_gen]; exact i.gens j, fun j z hz => ?_, fun j k z w hj hk hz hw ec es => ?_,
    fun j z hz ho => ?_⟩
  · obtain ⟨v, hv, o, -⟩ := key j z hz
    rw [o]
    exact i.place j v hv
  · obtain ⟨z', hz', -, c1, s1, -⟩ := key j z hz
    obtain ⟨w', hw', -, c2, s2, -⟩ := key k w hw
    exact i.unique j k z' w' hj hk hz' hw' (by rw [← c1, ← c2, ec]) (by rw [← s1, ← s2, es])
  · obtain ⟨v, hv, o, c, s', b, t, l⟩ := key j z hz
    have := i.fits j v hv (by rw [← o]; exact ho)
    rw [c, s', b, t, l]
    exact this

/-- A party hold is written into a party slot. -/
theorem HoldsSound.setHold_party {s : State} (i : HoldsSound s) {h : HoldSlot} {x : Hold} (hv : 20 ≤ h.val)
    (ow : x.owner ≠ .monitor) : HoldsSound (s.setHold h x) := by
  refine ⟨fun j => by rw [setHold_gen]; exact i.gens j, fun j z hz => ?_, fun j k z w hj hk hz hw => ?_,
    fun j z hz ho => ?_⟩
  · by_cases e : j = h
    · subst e
      rw [setHold_hold_same] at hz
      cases hz
      exact ⟨fun g => absurd g ow, fun g => absurd g (by omega)⟩
    · rw [setHold_hold_other s x e] at hz
      exact i.place j z hz
  · rw [setHold_hold_other s x (by rintro rfl; omega)] at hz hw
    exact i.unique j k z w hj hk hz hw
  · by_cases e : j = h
    · subst e
      rw [setHold_hold_same] at hz
      cases hz
      exact absurd ho ow
    · rw [setHold_hold_other s x e] at hz
      exact i.fits j z hz ho

/-- R60: a monitor hold whose cause and subject have none yet is written into a monitor slot. -/
theorem HoldsSound.setHold_monitor {s : State} (i : HoldsSound s) {h : HoldSlot} {cause : Cause} {subject : Option Nat}
    (scope : BitVec 8) (detail : Option FaultKind) (hv : h.val < 20) (fit : cause.subjectFits subject = true)
    (new : s.monitorHold cause subject = none) : HoldsSound (s.setHold h (newMonitorHold cause subject scope detail)) := by
  refine ⟨fun j => by rw [setHold_gen]; exact i.gens j, fun j z hz => ?_, fun j k z w hj hk hz hw ec es => ?_,
    fun j z hz ho => ?_⟩
  · by_cases e : j = h
    · subst e
      rw [setHold_hold_same] at hz
      cases hz
      exact ⟨fun _ => hv, fun _ => rfl⟩
    · rw [setHold_hold_other _ _ e] at hz
      exact i.place j z hz
  · by_cases e : j = h
    · by_cases e' : k = h
      · rw [e, e']
      · subst e
        rw [setHold_hold_same] at hz
        cases hz
        rw [setHold_hold_other _ _ e'] at hw
        exact absurd ⟨ec.symm, es.symm⟩ (monitorHold_none new hk hw)
    · rw [setHold_hold_other _ _ e] at hz
      by_cases e' : k = h
      · subst e'
        rw [setHold_hold_same] at hw
        cases hw
        exact absurd ⟨ec, es⟩ (monitorHold_none new hj hz)
      · rw [setHold_hold_other _ _ e'] at hw
        exact i.unique j k z w hj hk hz hw ec es
  · by_cases e : j = h
    · subst e
      rw [setHold_hold_same] at hz
      cases hz
      exact ⟨fit, rfl, rfl, rfl⟩
    · rw [setHold_hold_other _ _ e] at hz
      exact i.fits j z hz ho

/-- R49: a slot is freed and its generation stepped. -/
theorem HoldsSound.freeHold {s : State} (i : HoldsSound s) (h : HoldSlot) : HoldsSound (s.freeHold h) := by
  have key : ∀ j z, (s.freeHold h).hold j = some z → s.hold j = some z := by
    intro j z hz
    by_cases e : j = h
    · subst e
      rw [freeHold_hold_same] at hz
      cases hz
    · rwa [freeHold_hold_other s e] at hz
  refine ⟨fun j => ?_, fun j z hz => i.place j z (key j z hz),
    fun j k z w hj hk hz hw => i.unique j k z w hj hk (key j z hz) (key k w hw),
    fun j z hz => i.fits j z (key j z hz)⟩
  by_cases e : h.val = j.val
  · obtain rfl : h = j := Fin.ext e
    simp only [freeHold_holds, Fin.getElem_fin, Vector.getElem_set_self]
    exact Nat.mod_lt _ (by decide)
  · have := i.gens j
    simp only [freeHold_holds, Fin.getElem_fin] at this ⊢
    rw [Vector.getElem_set_ne _ _ e]
    exact this

/-! ## The operations of the hold table -/

theorem evaluated_setHold_again {s : State} {h : HoldSlot} {x y : Hold} (hx : s.hold h = some x)
    (ow : y.owner = x.owner) (ca : y.cause = x.cause) (su : y.subject = x.subject) (bl : y.blocks = x.blocks)
    (st : y.style = x.style) (la : y.latched = x.latched) : Evaluated s (s.setHold h y) :=
  Evaluated.of_holds rfl fun i => i.setHold_again hx ow ca su bl st la

/-- R48, R56: removing a hold. -/
theorem evaluated_removeHold (slot : HoldSlot) (s : State) : Evaluated s (removeHold slot s) :=
  (Evaluated.of_holds (t := s.freeHold slot) rfl fun i => i.freeHold slot).trans (evaluated_wantReconsider _)

/-- R57: a party hold comes to stand. -/
theorem evaluated_enterParty (s : State) {slot : HoldSlot} {h : Hold} (hv : 20 ≤ slot.val) (ow : h.owner ≠ .monitor) :
    Evaluated s (enterHold slot h s) :=
  ((Evaluated.of_holds (t := s.setHold slot h) rfl fun i => i.setHold_party hv ow).trans
    (evaluated_stopMotion _ _ _ _)).trans (evaluated_raise _ _)

/-- R61: a hold's scope changes. -/
theorem evaluated_rescope (slot : HoldSlot) (scope : BitVec 8) (s : State) : Evaluated s (rescope slot scope s) := by
  unfold rescope
  split
  · exact Evaluated.refl s
  · rename_i h hh
    have h1 : Evaluated s (s.setHold slot { h with scope := scope }) :=
      evaluated_setHold_again hh rfl rfl rfl rfl rfl rfl
    dsimp only
    split <;> split
    · exact h1
    · exact h1.trans ((evaluated_stopMotion _ _ _ _).trans (evaluated_raise _ _))
    · exact h1.trans (evaluated_wantReconsider _)
    · exact (h1.trans ((evaluated_stopMotion _ _ _ _).trans (evaluated_raise _ _))).trans (evaluated_wantReconsider _)

/-- R62: a hold that stands is created again. -/
theorem evaluated_reassert (slot : HoldSlot) (scope : BitVec 8) (detail : Option FaultKind) (s : State) :
    Evaluated s (reassert slot scope detail s) := by
  unfold reassert
  split
  · exact Evaluated.refl s
  · rename_i h hh
    dsimp only
    refine Evaluated.trans ?_ (evaluated_rescope _ _ _)
    refine Evaluated.trans ?_ (evaluated_raiseIf _ _ _)
    exact evaluated_setHold_again hh rfl rfl rfl rfl rfl rfl

/-- R60: a monitor hold is created. -/
theorem evaluated_createMonitorHold {cause : Cause} {subject : Option Nat} (scope : BitVec 8)
    (detail : Option FaultKind) (s : State) (fit : cause.subjectFits subject = true) :
    Evaluated s (createMonitorHold cause subject scope detail s) := by
  unfold createMonitorHold
  split
  · exact evaluated_reassert _ _ _ _
  · rename_i new
    split
    · rename_i slot free
      have hv := mem_monitorHolds.1 (freeHoldSlot_some free).1
      exact ((Evaluated.of_holds (t := s.setHold slot (newMonitorHold cause subject scope detail)) rfl
        fun i => i.setHold_monitor scope detail hv fit new).trans (evaluated_stopMotion _ _ _ _)).trans
        (evaluated_raise _ _)
    · exact Evaluated.refl s

/-- R61: the cause of a latched hold goes. -/
theorem evaluated_markGone (slot : HoldSlot) (s : State) : Evaluated s (markGone slot s) := by
  unfold markGone
  split
  · exact Evaluated.refl s
  · rename_i h hh
    split
    · refine Evaluated.trans ?_ (evaluated_raise _ _)
      exact evaluated_setHold_again hh rfl rfl rfl rfl rfl rfl
    · exact Evaluated.refl s

/-! ## The evaluations of the monitor unit -/

theorem evaluated_evalPlain {cause : Cause} {subject : Option Nat} (want : Option (BitVec 8)) (s : State)
    (fit : cause.subjectFits subject = true) : Evaluated s (evalPlain cause subject want s) := by
  unfold evalPlain
  split
  · exact evaluated_createMonitorHold _ _ _ fit
  · exact evaluated_rescope _ _ _
  · exact evaluated_removeHold _ _
  · exact Evaluated.refl s

theorem evaluated_evalLatched {cause : Cause} {subject : Option Nat} (scope : BitVec 8) (detail : Option FaultKind)
    (stands : Bool) (s : State) (fit : cause.subjectFits subject = true) :
    Evaluated s (evalLatched cause subject scope detail stands s) := by
  unfold evalLatched
  split
  · split
    · exact evaluated_createMonitorHold _ _ _ fit
    · exact Evaluated.refl s
  · split
    · exact Evaluated.refl s
    · split
      · split
        · exact evaluated_reassert _ _ _ _
        · exact Evaluated.refl s
      · exact evaluated_markGone _ _

theorem evaluated_evalRoad (s : State) : Evaluated s (evalRoad s) :=
  (evaluated_evalPlain _ s rfl).trans (evaluated_raiseIf _ _ _)

theorem evaluated_evalLowv (s : State) : Evaluated s (evalLowv s) :=
  (evaluated_evalPlain _ s rfl).trans (evaluated_raiseIf _ _ _)

theorem evaluated_evalEstop (s : State) : Evaluated s (evalEstop s) := evaluated_evalLatched _ _ _ s rfl

theorem evaluated_evalWind (s : State) : Evaluated s (evalWind s) := evaluated_evalPlain _ s rfl

theorem evaluated_evalUnset (s : State) : Evaluated s (evalUnset s) := evaluated_evalPlain _ s rfl

theorem evaluated_evalSlidesOut (s : State) : Evaluated s (evalSlidesOut s) := evaluated_evalPlain _ s rfl

theorem evaluated_evalSweep (p : Fin 4) (s : State) : Evaluated s (evalSweep p s) :=
  evaluated_evalPlain _ s (by simp [Cause.subjectFits])

theorem evaluated_evalSweepOf (a : Asm) (s : State) : Evaluated s (evalSweepOf a s) := by
  refine Evaluated.forAll fun p _ t => ?_
  split
  · exact evaluated_evalSweep p t
  · exact Evaluated.refl t

theorem fault_fits (a : Asm) : Cause.subjectFits .fault (some a.val) = true := by
  simp [Cause.subjectFits]

theorem evaluated_evalFault (a : Asm) (s : State) : Evaluated s (evalFault a s) := by
  unfold evalFault
  dsimp only
  split
  · exact (evaluated_setLatch a _ s).trans (evaluated_evalLatched _ _ _ _ (fault_fits a))
  · exact evaluated_evalLatched _ _ _ _ (fault_fits a)

theorem evaluated_faultHanded (a : Asm) (k : FaultKind) (s : State) : Evaluated s (faultHanded a k s) := by
  have h1 := (evaluated_setLatch a k s).trans
    (evaluated_createMonitorHold (BitVec.twoPow 8 a.val) (some k) (setLatch a k s) (fault_fits a))
  unfold faultHanded
  dsimp only
  split
  · exact h1
  · split
    · exact h1.trans (evaluated_markGone _ _)
    · exact h1

theorem evaluated_evalAll (s : State) : Evaluated s (evalAll s) :=
  ((((((((evaluated_evalRoad s).trans (evaluated_evalLowv _)).trans (evaluated_evalEstop _)).trans
    (evaluated_evalWind _)).trans (evaluated_evalUnset _)).trans (evaluated_evalSlidesOut _))).trans
    (Evaluated.forAll fun p _ t => evaluated_evalSweep p t)).trans (Evaluated.forAll fun a _ t => evaluated_evalFault a t)

theorem evaluated_evalAsmChange (a : Asm) (s : State) : Evaluated s (evalAsmChange a s) :=
  ((evaluated_evalSlidesOut s).trans (evaluated_evalSweepOf a _)).trans (evaluated_evalUnset _)

theorem evaluated_evalFaultOf (c : Chan) (s : State) : Evaluated s (evalFaultOf c s) := by
  unfold evalFaultOf
  split
  · exact evaluated_evalFault _ s
  · exact Evaluated.refl s

end Sys2Proof.Laws
end

