-- ==== Sys2Proof/Laws/Travel.lean ====
section
/-! SUPPORT. Assemblies and channels: what an event at one channel may change (chapters 1 and 2). -/
namespace Sys2Proof.Laws
open Sys2Proof.Machine

/-! ## The assembly unit -/

theorem handed_of_asms {s t : State} {x : Vector AsmLive 8} (e : t = { s with asms := x }) : Handed s t := by
  subst e
  exact ⟨rfl, rfl, rfl, rfl, rfl, rfl, rfl, rfl, rfl, rfl, rfl, rfl, rfl, rfl, HoldsSound.of_eq rfl⟩

theorem handed_setAsm (a : Asm) (x : AsmLive) (s : State) : Handed s (s.setAsm a x) := handed_of_asms rfl

theorem handed_setStance (x : Stance) (s : State) : Handed s (setStance x s) := by
  unfold setStance
  split
  · exact Handed.refl s
  · have h1 : Handed s { s with lev := { s.lev with stance := x } } :=
      ⟨rfl, rfl, rfl, rfl, rfl, rfl, rfl, rfl, rfl, rfl, rfl, rfl, rfl, rfl, HoldsSound.of_eq rfl⟩
    exact h1.trans (evaluated_evalUnset _).handed

theorem handed_followStance (s : State) : Handed s (followStance s) := by
  unfold followStance
  split
  · exact Handed.refl s
  · exact handed_setStance _ s

theorem handed_leaveSet (s : State) : Handed s (leaveSet s) := by
  unfold leaveSet
  split
  · exact handed_setStance _ s
  · exact Handed.refl s

/-- R34: a summary and a settled condition are computed anew. -/
theorem handed_refreshAsm (a : Asm) (s : State) : Handed s (refreshAsm a s) := by
  unfold refreshAsm
  dsimp only
  split
  · exact Handed.refl s
  · split
    · exact handed_setAsm _ _ s
    · refine Handed.trans ?_ (evaluated_evalAsmChange _ _).handed
      split
      · exact (handed_setAsm _ _ s).trans (handed_followStance _)
      · exact handed_setAsm _ _ s

theorem handed_endPair (a : Asm) (c d : Chan) (s : State) : Handed s (endPair a c d s) :=
  (handed_setAsm _ _ s).trans (evaluated_sendAll _ _).handed

theorem handed_skewFault (a : Asm) (c d : Chan) (s : State) : Handed s (skewFault a c d s) := by
  unfold skewFault
  dsimp only
  refine Handed.trans ?_ (evaluated_sendAll _ _).handed
  refine Handed.trans ?_ (evaluated_faultHanded _ _ _).handed
  have h1 : Handed s (raise .fault (s.setAsm a (s.asm a).disengage)) :=
    (handed_setAsm _ _ s).trans (evaluated_raise _ _).handed
  split
  · exact h1.trans (evaluated_send _ _).handed
  · exact h1

theorem handed_resumeTest (a : Asm) (c d : Chan) (go : Option Side) (s : State) : Handed s (resumeTest a c d go s) := by
  unfold resumeTest
  split
  · exact Handed.refl s
  · exact (handed_setAsm _ _ s).trans (evaluated_send _ _).handed

theorem handed_trimTest (a : Asm) (c d : Chan) (go : Option Side) (s : State) : Handed s (trimTest a c d go s) := by
  unfold trimTest
  split
  · split
    · exact (handed_setAsm _ _ s).trans (evaluated_send _ _).handed
    · exact Handed.refl s
  · exact Handed.refl s

theorem handed_measurePair (a : Asm) (c d : Chan) (s : State) : Handed s (measurePair a c d s) := by
  unfold measurePair
  dsimp only
  split
  · exact (handed_setAsm _ _ s).trans (handed_skewFault _ _ _ _)
  · exact ((handed_setAsm _ _ s).trans (handed_resumeTest _ _ _ _ _)).trans (handed_trimTest _ _ _ _ _)

/-- R41, R42: an event of a channel of a pair. -/
theorem handed_pairUpdate (a : Asm) (s : State) : Handed s (pairUpdate a s) := by
  unfold pairUpdate
  split
  · split
    · exact Handed.refl s
    · split
      · exact handed_endPair _ _ _ s
      · exact handed_measurePair _ _ _ s
  · exact Handed.refl s

/-- R41: an engagement that the claims of its channels end. -/
theorem handed_partPair (a : Asm) (s : State) : Handed s (partPair a s) := by
  unfold partPair
  split
  · split
    · exact Handed.refl s
    · split
      · exact handed_endPair _ _ _ s
      · exact Handed.refl s
  · exact Handed.refl s

theorem handed_partTwin (c : Chan) (s : State) : Handed s (partTwin c s) := by
  unfold partTwin
  split
  · exact handed_partPair _ s
  · exact Handed.refl s

theorem handed_engage (a : Asm) (s : State) : Handed s (engage a s) := handed_setAsm _ _ s

/-- What a channel's neighbours make of its change moves no channel and touches no claim and no order. -/
theorem handed_handOn (c : Chan) (wasIdle : Bool) (s : State) : Handed s (handOn c wasIdle s) := by
  unfold handOn
  split
  · exact Handed.refl s
  · refine Handed.trans ?_ (handed_pairUpdate _ _)
    refine Handed.trans ?_ (handed_refreshAsm _ _)
    unfold when'
    split
    · exact handed_leaveSet s
    · exact Handed.refl s

/-! ## Events at one channel -/

/-- What an event at one channel may change: that channel's record, and what is handed on. -/
structure Moved (c : Chan) (s t : State) : Prop where
  others : ∀ d, d ≠ c → t.chan d = s.chan d
  rest   : Handed { s with channels := t.channels } t

theorem Moved.refl (c : Chan) (s : State) : Moved c s s := ⟨fun _ _ => rfl, Handed.refl s⟩

theorem Moved.trans {c : Chan} {s t u : State} (h : Moved c s t) (g : Moved c t u) : Moved c s u := by
  refine ⟨fun d hd => (g.others d hd).trans (h.others d hd), Handed.trans (t := { t with channels := u.channels }) ?_ g.rest⟩
  have r := h.rest
  exact ⟨r.setup, rfl, r.claims, r.succs, r.orders, r.tilt, r.lev, r.store, r.nv, r.pins, r.sys, r.pending, r.port, r.mon,
    fun x => HoldsSound.of_eq (s := t) rfl (r.holds (HoldsSound.of_eq (s := { s with channels := u.channels }) rfl x))⟩

theorem Handed.moved {c : Chan} {s t : State} (h : Handed s t) : Moved c s t := by
  refine ⟨fun d _ => by simp only [State.chan, h.channels], ?_⟩
  rw [h.channels]
  exact h

theorem Evaluated.moved {c : Chan} {s t : State} (h : Evaluated s t) : Moved c s t := h.handed.moved

theorem moved_setChan (c : Chan) (x : Channel) (s : State) : Moved c s (s.setChan c x) :=
  ⟨fun _ hd => setChan_chan_other s x hd, Handed.refl _⟩

theorem Moved.ran {c : Chan} {s t : State} (h : Moved c s t) : Ran s t := by
  have h1 : Ran s { s with channels := t.channels } := Ran.of_same rfl rfl rfl rfl rfl rfl rfl rfl rfl rfl rfl
  exact h1.trans h.rest.ran

/-- R92: an event at a channel leaves the claims, the successor marks and the orders. -/
theorem Moved.claims {c : Chan} {s t : State} (h : Moved c s t) :
    t.claims = s.claims ∧ t.succs = s.succs ∧ t.orders = s.orders :=
  ⟨h.rest.claims, h.rest.succs, h.rest.orders⟩

/-- The frame the statements speak of. -/
theorem Moved.frame {c : Chan} {s t : State} (h : Moved c s t) : SameButChannel c s t :=
  ⟨h.others, h.rest.setup, h.rest.tilt, by rw [h.rest.store], h.rest.nv, h.rest.sys, h.rest.pending⟩

theorem Moved.when' {c : Chan} {b : Bool} {f : State → State} {s : State} (h : Moved c s (f s)) :
    Moved c s (when' b f s) := by
  cases b
  · exact Moved.refl c s
  · exact h

theorem moved_updChan (c : Chan) (x : Channel) (s : State) : Moved c s (updChan c x s) :=
  (moved_setChan c x s).trans (handed_handOn _ _ _).moved

theorem evaluated_emitReport (c : Chan) (kind : ReportKind) (met : Option End) (s : State) :
    Evaluated s (emitReport c kind met s) := by
  unfold emitReport
  split
  · exact evaluated_send _ s
  · exact Evaluated.refl s

theorem moved_endMotionAt (c : Chan) (rep : ReportKind) (met : Option End) (s : State) :
    Moved c s (endMotionAt c rep met s) :=
  ((moved_setChan c _ s).trans (evaluated_emitReport _ _ _ _).moved).trans (handed_handOn _ _ _).moved

theorem moved_endMotion (c : Chan) (rep : ReportKind) (s : State) : Moved c s (endMotion c rep s) :=
  moved_endMotionAt c rep none s

theorem evaluated_faultToMonitor (c : Chan) (k : FaultKind) (s : State) : Evaluated s (faultToMonitor c k s) := by
  unfold faultToMonitor
  split
  · exact evaluated_faultHanded _ _ s
  · exact Evaluated.refl s

/-- R26: a channel's fault. -/
theorem moved_channelFault (c : Chan) (k : FaultKind) (s : State) : Moved c s (channelFault c k s) :=
  ((((moved_setChan c _ s).trans (evaluated_raise _ _).moved).trans (evaluated_emitReport _ _ _ _).moved.when').trans
    (evaluated_faultToMonitor _ _ _).moved).trans (handed_handOn _ _ _).moved

theorem moved_sensorConflict (c : Chan) (s : State) : Moved c s (sensorConflict c s) :=
  (moved_updChan c _ s).trans (moved_channelFault c _ _)

theorem moved_endMet (c : Chan) (d : Dir) (s : State) : Moved c s (endMet c d s) := by
  unfold endMet
  split
  · exact Moved.refl c s
  · split
    · exact moved_endMotionAt c _ _ s
    · split
      · exact moved_endMotion c _ s
      · exact Moved.refl c s

/-- R19: IN becomes active. -/
theorem moved_takeIn (c : Chan) (s : State) : Moved c s (takeIn c s) := by
  unfold takeIn
  dsimp only
  refine Moved.trans ?_ (evaluated_evalFaultOf _ _).moved
  split
  · exact (moved_setChan c _ s).trans (moved_sensorConflict c _)
  · exact ((moved_setChan c _ s).trans (moved_updChan c _ _)).trans (moved_endMet c _ _)

/-- R20: OUT becomes active. -/
theorem moved_takeOut (c : Chan) (s : State) : Moved c s (takeOut c s) := by
  unfold takeOut
  dsimp only
  refine Moved.trans ?_ (evaluated_evalFaultOf _ _).moved
  split
  · exact (moved_setChan c _ s).trans (moved_sensorConflict c _)
  · exact (((moved_setChan c _ s).trans (evaluated_raiseIf _ _ _).moved).trans (moved_updChan c _ _)).trans
      (moved_endMet c _ _)

theorem moved_takeEndGone (c : Chan) (e : End) (s : State) : Moved c s (takeEndGone c e s) :=
  (moved_setChan c _ s).trans (evaluated_evalFaultOf _ _).moved

theorem moved_takeTrp (c : Chan) (s : State) : Moved c s (takeTrp c s) :=
  ((moved_setChan c _ s).trans (moved_channelFault c _ _)).trans (evaluated_evalFaultOf _ _).moved

theorem moved_takeTrpGone (c : Chan) (s : State) : Moved c s (takeTrpGone c s) :=
  (moved_setChan c _ s).trans (evaluated_evalFaultOf _ _).moved

theorem moved_afterCount (c : Chan) (s : State) : Moved c s (afterCount c s) := by
  unfold afterCount
  split
  · exact moved_endMotion c _ s
  · exact moved_channelFault c _ s
  · split
    · exact Moved.refl c s
    · exact moved_updChan c _ s

/-- R16 to R18: a count. -/
theorem moved_takeCount (c : Chan) (s : State) : Moved c s (takeCount c s) := by
  unfold takeCount
  dsimp only
  split
  · split
    · exact moved_updChan c _ s
    · exact (moved_updChan c _ s).trans (evaluated_raiseIf _ _ _).moved
  · split
    · exact (moved_updChan c _ s).trans (moved_afterCount c _)
    · exact moved_updChan c _ s

/-- R23: a stall timer. -/
theorem moved_takeStall (c : Chan) (s : State) : Moved c s (takeStall c s) := by
  unfold takeStall
  dsimp only
  split
  · split
    · exact (moved_setChan c _ s).trans (moved_endMotion c _ _)
    · exact moved_channelFault c _ s
  · split
    · exact (moved_setChan c _ s).trans (moved_endMotion c _ _)
    · exact moved_channelFault c _ s
  · split
    · exact (moved_setChan c _ s).trans (moved_endMotion c _ _)
    · exact moved_channelFault c _ s
  · exact moved_endMotion c _ s
  · exact Moved.refl c s
  · exact Moved.refl c s

theorem moved_stepChan (c : Chan) (r : Channel × Bool) (s : State) : Moved c s (stepChan c r s) :=
  ((moved_setChan c _ s).trans (evaluated_emitReport _ _ _ _).moved.when').trans (handed_handOn _ _ _).moved

theorem moved_takeRamp (c : Chan) (s : State) : Moved c s (takeRamp c s) := moved_stepChan c _ s

theorem moved_takePause (c : Chan) (s : State) : Moved c s (takePause c s) := moved_updChan c _ s

theorem moved_takeResume (c : Chan) (s : State) : Moved c s (takeResume c s) := moved_updChan c _ s

theorem moved_takeCut (c : Chan) (s : State) : Moved c s (takeCut c s) := by
  unfold takeCut
  split
  · exact Moved.refl c s
  · exact moved_endMotion c _ s

theorem moved_takeEase (c : Chan) (s : State) : Moved c s (takeEase c s) := moved_stepChan c _ s

/-- R13, R15: what a motion that ends leaves of its channel. -/
theorem chan_endMotionAt (c : Chan) (rep : ReportKind) (met : Option End) (s : State) :
    (endMotionAt c rep met s).chan c = enterIdle rep (s.chan c) := by
  have h1 := (handed_handOn c false (emitReport c rep met (s.setChan c (enterIdle rep (s.chan c))))).channels
  have h2 := (evaluated_emitReport c rep met (s.setChan c (enterIdle rep (s.chan c)))).body.channels
  have : (endMotionAt c rep met s).channels = (s.setChan c (enterIdle rep (s.chan c))).channels := h1.trans h2
  simp only [State.chan, this]
  exact setChan_chan_same s c _

theorem chan_endMotion (c : Chan) (rep : ReportKind) (s : State) :
    (endMotion c rep s).chan c = enterIdle rep (s.chan c) := chan_endMotionAt c rep none s

/-- What an update leaves of its channel. -/
theorem chan_updChan (c : Chan) (x : Channel) (s : State) : (updChan c x s).chan c = x := by
  have h := (handed_handOn c (decide ((s.chan c).state = .idle)) (s.setChan c x)).channels
  have : (updChan c x s).channels = (s.setChan c x).channels := h
  simp only [State.chan, this]
  exact setChan_chan_same s c x

/-- R26: what a fault leaves of its channel. -/
theorem chan_channelFault (c : Chan) (k : FaultKind) (s : State) :
    (channelFault c k s).chan c = faultRecord k (s.chan c) := by
  have hw : ∀ (b : Bool) (u : State), (when' b (emitReport c (.fault k) none) u).channels = u.channels := by
    intro b u
    cases b
    · rfl
    · exact (evaluated_emitReport c (.fault k) none u).body.channels
  have h : (channelFault c k s).channels = (s.setChan c (faultRecord k (s.chan c))).channels :=
    (handed_handOn c false _).channels.trans ((evaluated_faultToMonitor c k _).body.channels.trans (hw _ _))
  have := setChan_chan_same s c (faultRecord k (s.chan c))
  simp only [State.chan] at this ⊢
  rw [h]
  exact this

end Sys2Proof.Laws
end

