-- ==== Sys2Proof/Laws/Orders.lean ====
section
/-! SUPPORT. The order engine and the leveller: everything they do is a run in the sense of `Ran` (chapters 5 and 7). -/
namespace Sys2Proof.Laws
open Sys2Proof.Machine

/-! ## Records and claims -/

theorem ran_setChan (c : Chan) (x : Channel) (s : State) : Ran s (s.setChan c x) := (moved_setChan c x s).ran

theorem ran_setClaim (c : Chan) (x : Option OrderSlot) (s : State) : Ran s (s.setClaim c x) :=
  Ran.of_same rfl rfl rfl rfl rfl rfl rfl rfl rfl rfl rfl

theorem ran_setSucc (c : Chan) (x : Option OrderSlot) (s : State) : Ran s (s.setSucc c x) :=
  Ran.of_same rfl rfl rfl rfl rfl rfl rfl rfl rfl rfl rfl

theorem ran_wantReconsider (s : State) : Ran s (wantReconsider s) := (evaluated_wantReconsider s).ran

theorem ran_raise (f : Flag) (s : State) : Ran s (raise f s) := (evaluated_raise f s).ran

theorem ran_sendAll (ms : List Msg) (s : State) : Ran s (sendAll ms s) := (evaluated_sendAll ms s).ran

theorem Ran.when' {b : Bool} {f : State → State} {s : State} (h : Ran s (f s)) : Ran s (when' b f s) := by
  cases b
  · exact Ran.refl s
  · exact h

theorem ran_freeClaims (k : OrderSlot) (s : State) : Ran s (freeClaims k s) := by
  refine Ran.forAll fun c _ t => ?_
  split
  · exact ran_setClaim c none t
  · exact Ran.refl t

theorem ran_dropSuccs (k : OrderSlot) (s : State) : Ran s (dropSuccs k s) := by
  refine Ran.forAll fun c _ t => ?_
  split
  · exact ran_setSucc c none t
  · exact Ran.refl t

theorem ran_dropReads (h : Byte) (s : State) : Ran s (dropReads h s) :=
  Ran.of_same rfl rfl rfl rfl rfl rfl rfl rfl rfl rfl rfl

theorem ran_of_lev {s t : State} {x : Leveller} (e : t = { s with lev := x }) : Ran s t := by
  subst e
  exact Ran.of_same rfl rfl rfl rfl rfl rfl rfl rfl rfl rfl rfl

/-! ## Final states -/

theorem ran_levelOutcome (o : Order) (st : OrderState) (s : State) : Ran s (levelOutcome o st s) := by
  have h1 : Ran s (stopStageTimers o s) := by
    unfold stopStageTimers
    split
    · exact ran_of_lev rfl
    · exact Ran.refl s
  exact h1.trans (handed_setStance .set _).ran.when'

/-- R111: an order ends. -/
theorem ran_endOrder (k : OrderSlot) (st : OrderState) (r : Option Reason) (s : State) : Ran s (endOrder k st r s) := by
  unfold endOrder
  split
  · exact Ran.refl s
  · rename_i o ho
    dsimp only
    refine Ran.trans ?_ (ran_wantReconsider _).when'
    refine Ran.trans ?_ (ran_levelOutcome _ _ _)
    refine Ran.trans ?_ (ran_raise _ _)
    refine Ran.trans ?_ (ran_dropReads _ _)
    refine Ran.trans ?_ (ran_dropSuccs _ _)
    refine Ran.trans ?_ (ran_freeClaims _ _)
    exact (Ran.refl s).setOrder ho rfl

theorem ran_finishIfDone (k : OrderSlot) (s : State) : Ran s (finishIfDone k s) := by
  unfold finishIfDone
  split
  · exact Ran.refl s
  · split
    · exact ran_endOrder _ _ _ s
    · exact Ran.refl s

/-! ## Easing toward a result -/

theorem ran_toBlocked (k : OrderSlot) (s : State) : Ran s (toBlocked k s) := ran_modOrder s k _ fun _ => rfl

theorem ran_enterPending (k : OrderSlot) (p : PendingResult) (s : State) : Ran s (enterPending k p s) := by
  unfold enterPending
  split
  · exact ran_endOrder _ _ _ s
  · exact (ran_toBlocked k s).trans (ran_wantReconsider _)

theorem ran_finishEasing (k : OrderSlot) (s : State) : Ran s (finishEasing k s) := by
  unfold finishEasing
  split
  · exact Ran.refl s
  · split
    · split
      · exact ran_enterPending _ _ s
      · exact Ran.refl s
    · exact Ran.refl s

theorem ran_easeOut (k : OrderSlot) (p : PendingResult) (skip : List Chan) (s : State) : Ran s (easeOut k p skip s) := by
  unfold easeOut
  split
  · exact Ran.refl s
  · rename_i o ho
    refine Ran.trans ?_ (ran_sendAll _ _)
    exact (Ran.refl s).setOrder ho rfl

theorem ran_orderFault (k : OrderSlot) (r : Reason) (skip : List Chan) (s : State) : Ran s (orderFault k r skip s) := by
  unfold orderFault
  split
  · exact Ran.refl s
  · split
    · exact (ran_easeOut _ _ _ s).trans (ran_finishEasing _ _)
    · exact Ran.refl s

/-- R55, R107: an order is stopped by a hold. -/
theorem ran_stopOrder (k : OrderSlot) (cs : List Chan) (s : State) : Ran s (stopOrder k cs s) := by
  unfold stopOrder
  split
  · exact Ran.refl s
  · split
    · have h1 := (ran_easeOut k (.final .stopped (some .hold)) cs s).trans (ran_dropSuccs k _)
      dsimp only
      split
      · exact h1.trans (ran_endOrder _ _ _ _)
      · exact h1
    · exact (ran_easeOut _ _ _ s).trans (ran_finishEasing _ _)

/-! ## The starting procedure -/

theorem ran_dropCommands (c : Chan) (out : StartOutcome) (s : State) : Ran s (dropCommands c out s) := by
  unfold dropCommands
  split
  · exact Ran.refl s
  · exact Ran.of_same rfl rfl rfl rfl rfl rfl rfl rfl rfl rfl rfl

theorem ran_startEntries (profile : Chan → Profile) (es : List Entry) (s : State) :
    Ran s (startEntries profile es s).1 := by
  induction es generalizing s with
  | nil => exact Ran.refl s
  | cons e es ih =>
    simp only [startEntries]
    split
    · exact ((ran_setChan _ _ s).trans (ran_dropCommands _ _ _)).trans (ih _)
    · exact ih s

theorem ran_handStart (x : Chan × StartOutcome) (s : State) : Ran s (handStart x s) := by
  unfold handStart
  split
  · exact Ran.refl s
  · exact (handed_handOn _ _ s).ran
  · exact (handed_handOn _ _ s).ran
  · exact (ran_raise _ s).trans (evaluated_faultToMonitor _ _ _).ran

theorem ran_faultOfStart (k : OrderSlot) (x : Chan × StartOutcome) (s : State) : Ran s (faultOfStart k x s) := by
  unfold faultOfStart
  split
  · exact ran_orderFault _ _ _ s
  all_goals exact Ran.refl s

theorem ran_startBlocked (k : OrderSlot) (s : State) : Ran s (startBlocked k s) := by
  unfold startBlocked
  split
  · exact Ran.refl s
  · split
    · exact ran_stopOrder _ _ s
    · split
      · exact ran_endOrder _ _ _ s
      · exact ran_toBlocked _ s

theorem ran_startFree {k : OrderSlot} {o u : Order} (batch : List Entry) {s : State} (hu : s.order k = some u)
    (ho : o.owner = u.owner) : Ran s (startFree k o batch s) := by
  unfold startFree
  dsimp only
  refine Ran.trans ?_ (ran_finishIfDone _ _)
  refine Ran.trans ?_ (Ran.forAll fun x _ t => ran_faultOfStart k x t)
  refine Ran.trans ?_ (Ran.forAll fun x _ t => ran_handStart x t)
  refine Ran.trans ?_ (Handed.forAll fun a _ t => handed_engage a t).ran
  exact (ran_startEntries _ _ s).setOrder hu ho

/-- R97: the starting procedure. -/
theorem ran_startProc (k : OrderSlot) (s : State) : Ran s (startProc k s) := by
  unfold startProc
  split
  · exact Ran.refl s
  · rename_i o ho
    have h1 : Ran s (s.setOrder k (o.mapEntries (s.aim o))) := (Ran.refl s).setOrder ho rfl
    dsimp only
    split
    · exact h1.trans (ran_startBlocked _ _)
    · split
      · exact h1.trans (ran_finishIfDone _ _)
      · exact h1.trans (ran_startFree _ (setOrder_order_same _ _ _) rfl)

/-! ## The stages of the leveller -/

theorem ran_failMoving (k : OrderSlot) (r : Reason) (skip : List Chan) (s : State) : Ran s (failMoving k r skip s) :=
  (ran_easeOut _ _ _ s).trans (ran_finishEasing _ _)

theorem ran_beginSolve (k : OrderSlot) (s : State) : Ran s (beginSolve k s) := by
  have h1 : Ran s (s.modOrder k fun o => { o with stage := .solve }) := ran_modOrder s k _ fun _ => rfl
  unfold beginSolve
  dsimp only
  split
  · exact h1.trans (ran_of_lev rfl)
  · exact (h1.trans (ran_of_lev rfl)).trans (ran_endOrder _ _ _ _)

theorem ran_beginSettle (k : OrderSlot) (s : State) : Ran s (beginSettle k s) :=
  (ran_modOrder s k (fun o => { o with stage := .settle }) fun _ => rfl).trans (ran_of_lev rfl)

theorem ran_liftCheck (k : OrderSlot) (s : State) : Ran s (liftCheck k s) := by
  unfold liftCheck
  split
  · exact ran_beginSettle k s
  · exact Ran.refl s

theorem ran_beginLift (k : OrderSlot) (f : Entry → Entry) (s : State) : Ran s (beginLift k f s) :=
  ((ran_modOrder s k (fun o => { o.mapEntries f with stage := .lift }) fun _ => rfl).trans (ran_startProc _ _)).trans
    (ran_liftCheck _ _)

theorem ran_liftDecision (k : OrderSlot) (p q : Int) (s : State) : Ran s (liftDecision k p q s) := by
  unfold liftDecision
  split
  · exact Ran.refl s
  · rename_i o ho
    have h1 : Ran s (s.setOrder k (s.withLifts o p q)) := (Ran.refl s).setOrder ho rfl
    dsimp only
    split
    · exact h1.trans (ran_endOrder _ _ _ _)
    · split
      · exact h1.trans (ran_endOrder _ _ _ _)
      · exact h1.trans (ran_beginLift _ _ _)

/-- R142, R150: the SOLVE decision. -/
theorem ran_solveDecision (k : OrderSlot) (p q : Int) (s : State) : Ran s (solveDecision k p q s) := by
  unfold solveDecision
  split
  · exact Ran.refl s
  · rename_i o ho
    split
    · exact (ran_of_lev rfl).trans (ran_endOrder _ _ _ _)
    · split
      · split
        · refine Ran.trans ?_ (ran_liftDecision _ _ _ _)
          exact (Ran.refl s).setOrder ho rfl
        · exact ran_endOrder _ _ _ s
      · exact ran_liftDecision _ _ _ s

theorem ran_settleDecision (k : OrderSlot) (s : State) : Ran s (settleDecision k s) := by
  unfold settleDecision
  split
  · exact Ran.refl s
  · rename_i o ho
    split
    · exact ran_beginSolve _ s
    · split
      · exact ran_endOrder _ _ _ s
      · refine Ran.trans ?_ (ran_beginSolve _ _)
        exact (Ran.refl s).setOrder ho rfl

theorem ran_recallLift (k : OrderSlot) (s : State) : Ran s (recallLift k s) := by
  unfold recallLift
  split
  · exact Ran.refl s
  · rename_i o ho
    split
    · exact ran_beginLift _ _ s
    · refine Ran.trans ?_ (ran_endOrder _ _ _ _)
      exact (Ran.refl s).setOrder ho rfl

theorem ran_endReach (k : OrderSlot) (s : State) : Ran s (endReach k s) := by
  unfold endReach
  split
  · exact Ran.refl s
  · split
    · exact ran_recallLift _ s
    · exact ran_beginSolve _ s

theorem ran_reachCheck (k : OrderSlot) (s : State) : Ran s (reachCheck k s) := by
  unfold reachCheck
  split
  · exact ran_endReach _ s
  · exact Ran.refl s

theorem ran_giveContact (c : Chan) (s : State) : Ran s (giveContact c s) := by
  unfold giveContact
  dsimp only
  split
  · exact ran_setChan _ _ s
  · exact Ran.refl s

theorem ran_afterReachStart (k : OrderSlot) (s : State) : Ran s (afterReachStart k s) := by
  unfold afterReachStart
  split
  · exact ran_failMoving _ _ _ s
  · exact ran_reachCheck _ s

theorem ran_beginReach (k : OrderSlot) (s : State) : Ran s (beginReach k s) := by
  unfold beginReach
  split
  · exact Ran.refl s
  · rename_i o ho
    dsimp only
    refine Ran.trans ?_ (ran_afterReachStart _ _)
    refine Ran.trans ?_ (ran_startProc _ _)
    exact Ran.setOrder (Ran.forAll fun c _ t => ran_giveContact c t) ho rfl

theorem ran_beginStaged (k : OrderSlot) (s : State) : Ran s (beginStaged k s) := by
  unfold beginStaged
  split
  · exact Ran.refl s
  · split
    · exact ran_beginReach _ s
    · exact Ran.refl s

/-- R97, R138: an order starts. -/
theorem ran_startOrder (k : OrderSlot) (s : State) : Ran s (startOrder k s) := by
  unfold startOrder
  split
  · exact Ran.refl s
  · split
    · exact ran_beginStaged _ s
    · exact ran_startProc _ s

theorem ran_stageReport (k : OrderSlot) (c : Chan) (kind : ReportKind) (s : State) : Ran s (stageReport k c kind s) := by
  unfold stageReport
  split
  · split
    · exact ran_failMoving _ _ _ s
    · exact ran_reachCheck _ s
  · exact ran_liftCheck _ s

theorem ran_reachLimit (c : Chan) (s : State) : Ran s (reachLimit c s) := by
  unfold reachLimit
  split
  · exact Ran.refl s
  · split
    · exact Ran.refl s
    · dsimp only
      split
      · exact (evaluated_send _ s).ran.trans (ran_failMoving _ _ _ _)
      · exact Ran.refl s

theorem ran_writeContact (c : Chan) (s : State) : Ran s (writeContact c s) := by
  unfold writeContact
  split
  · exact ran_setChan _ _ s
  · exact Ran.refl s

theorem ran_contactCut (c : Chan) (s : State) : Ran s (contactCut c s) := by
  unfold contactCut
  split
  · exact Ran.refl s
  · split
    · exact Ran.refl s
    · rename_i o ho
      split
      · refine Ran.trans ?_ (evaluated_send _ _).ran
        exact (Ran.refl s).setOrder ho rfl
      · exact Ran.refl s

theorem ran_lostContact (c : Chan) (s : State) : Ran s (lostContact c s) := by
  unfold lostContact
  split
  · exact Ran.refl s
  · split
    · exact Ran.refl s
    · split
      · exact Ran.refl s
      · split
        · exact Ran.refl s
        · split
          · exact ran_failMoving _ _ _ s
          · exact Ran.refl s
        · exact ran_endOrder _ _ _ s
        · exact ran_endOrder _ _ _ s
        · dsimp only
          split
          · exact (ran_failMoving _ _ _ s).trans (evaluated_faultHanded _ _ _).ran
          · exact ran_failMoving _ _ _ s

/-- R133, R134, R140, R145: AUX changes. -/
theorem ran_takeAux (c : Chan) (active : Bool) (s : State) : Ran s (takeAux c active s) := by
  unfold takeAux
  dsimp only
  refine Ran.trans (ran_setChan c { s.chan c with auxActive := active } s) ?_
  generalize s.setChan c { s.chan c with auxActive := active } = t
  have h1 : Ran t (contactCut c (writeContact c t)) := (ran_writeContact c t).trans (ran_contactCut c _)
  have h2 : Ran t (lostContact c (leaveSet (raiseIf (decide (t.lev.stance = .set)) .stanceLost t))) :=
    ((evaluated_raiseIf _ _ t).ran.trans (handed_leaveSet _).ran).trans (ran_lostContact c _)
  repeat' split
  all_goals first | exact Ran.refl t | exact h1 | exact h2

end Sys2Proof.Laws
end

