-- ==== Sys2Proof/Laws/Flow.lean ====
section
/-! SUPPORT. What the order engine takes, what requests make of orders, and the end of an action: all runs in the sense of
`Ran` (chapter 5). -/
namespace Sys2Proof.Laws
open Sys2Proof.Machine

/-! ## Reports, notices -/

theorem ran_passClaim (k : OrderSlot) (c : Chan) (s : State) : Ran s (passClaim k c s) := by
  unfold passClaim
  split
  · split
    · refine Ran.trans ?_ (handed_partTwin _ _).ran
      exact ((ran_setClaim _ _ s).trans (ran_setSucc _ _ _)).trans (ran_modOrder _ _ _ fun _ => rfl)
    · exact Ran.refl s
  · exact Ran.refl s

theorem ran_orderReport (k : OrderSlot) (c : Chan) (kind : ReportKind) (s : State) : Ran s (orderReport k c kind s) := by
  unfold orderReport
  split
  · exact Ran.refl s
  · split
    · split
      · exact ran_orderFault _ _ _ s
      all_goals
        split
        · exact ran_stageReport _ _ _ s
        · exact ran_finishIfDone _ s
    · exact ran_finishEasing _ s
    all_goals exact Ran.refl s

theorem ran_startWaiting (c : Chan) (s : State) : Ran s (startWaiting c s) := by
  unfold startWaiting
  split
  · exact Ran.refl s
  · split
    · exact Ran.refl s
    · split
      · split
        · exact ((ran_startProc _ s).trans (ran_afterReachStart _ _)).trans (ran_liftCheck _ _)
        · exact ran_startOrder _ s
      · exact Ran.refl s

/-- R98, R105: a channel's report is taken. -/
theorem ran_takeReport (r : Report) (s : State) : Ran s (takeReport r s) := by
  unfold takeReport
  split
  · exact Ran.refl s
  · rename_i k _
    have h := ran_modOrder s k (fun o => o.modEntry r.chan fun e => e.reported r.kind) fun _ => rfl
    dsimp only
    refine Ran.trans ?_ (ran_startWaiting _ _)
    refine Ran.trans ?_ (ran_orderReport _ _ _ _)
    exact h.trans (ran_passClaim _ _ _)

theorem ran_takeSkew (a : Asm) (h : Byte) (s : State) : Ran s (takeSkew a h s) := by
  unfold takeSkew
  split
  · exact Ran.refl s
  · exact ran_orderFault _ _ _ s

/-- R55, R107: a stop notice is taken. -/
theorem ran_takeStop (n : StopNotice) (s : State) : Ran s (takeStop n s) := by
  unfold takeStop
  split
  · exact Ran.refl s
  · split
    · exact Ran.refl s
    · split
      · exact ran_stopOrder _ _ s
      · exact Ran.refl s

theorem ran_takeMsg (m : Msg) (s : State) : Ran s (takeMsg m s) := by
  unfold takeMsg
  split
  · exact ran_takeReport _ s
  · exact ran_takeSkew _ _ s
  · exact ran_takeStop _ s
  all_goals exact Ran.refl s

theorem ran_takeOldest (p : Msg → Bool) (s : State) : Ran s (takeOldest p s) := by
  unfold takeOldest
  split
  · rename_i m rest _
    have h1 : Ran s { s with inFlight := rest } := Ran.of_same rfl rfl rfl rfl rfl rfl rfl rfl rfl rfl rfl
    exact h1.trans (ran_takeMsg m _)
  · exact Ran.refl s

/-! ## Wind retraction orders, and the end of an action -/

theorem ran_claimAll (k : OrderSlot) (cs : List Chan) (s : State) : Ran s (claimAll k cs s) :=
  Ran.forAll fun c _ t => ran_setClaim c _ t

/-- R114: a BLOCKED wind order is reconsidered. -/
theorem ran_reconsiderOne (k : OrderSlot) (s : State) : Ran s (reconsiderOne k s) := by
  unfold reconsiderOne
  split
  · exact Ran.refl s
  · rename_i o ho
    dsimp only
    split
    · exact Ran.refl s
    · split
      · exact Ran.refl s
      · split
        · exact Ran.refl s
        · split
          · refine Ran.trans ?_ (ran_endOrder _ _ _ _)
            exact (ran_claimAll _ _ s).setOrder ho rfl
          · refine Ran.trans ?_ (ran_startProc _ _)
            exact (ran_claimAll _ _ s).setOrder ho rfl

theorem ran_unreconsider (s : State) : Ran s { s with reconsider := false } :=
  Ran.of_same rfl rfl rfl rfl rfl rfl rfl rfl rfl rfl rfl

theorem ran_settleLoop (n : Nat) (s : State) : Ran s (settleLoop n s) := by
  induction n generalizing s with
  | zero => exact ran_unreconsider s
  | succ n ih =>
    unfold settleLoop
    split
    · exact ((ran_unreconsider s).trans (Ran.forAll fun k _ t => ran_reconsiderOne k t)).trans (ih _)
    · exact Ran.refl s

/-- R114: the end of an action. -/
theorem ran_settle (s : State) : Ran s (settle s) := ran_settleLoop 4 s

theorem settleLoop_between (n : Nat) (s : State) : (settleLoop n s).reconsider = false := by
  induction n generalizing s with
  | zero => rfl
  | succ n ih =>
    unfold settleLoop
    split
    · exact ih _
    · rename_i h
      simpa using h

/-- After an action nothing is left to reconsider. -/
theorem settle_between (s : State) : (settle s).reconsider = false := settleLoop_between 4 s

/-- An action that asks for nothing to be reconsidered ends as it is. -/
theorem settle_of_clear {s : State} (h : s.reconsider = false) : settle s = s := by
  simp [settle, settleLoop, h]

/-- R114: an order that is not BLOCKED is not reconsidered. -/
theorem reconsiderOne_of_not_blocked {s : State} {k : OrderSlot} (h : (s.order k).map (·.state) ≠ some .blocked) :
    reconsiderOne k s = s := by
  unfold reconsiderOne
  split
  · rfl
  · rename_i o ho
    have : o.state ≠ .blocked := fun e => h (by rw [ho, ← e]; rfl)
    simp [this]

/-- R114: with no order BLOCKED the end of an action changes nothing. -/
theorem settle_of_none_blocked {s : State} (h : ∀ k, (s.order k).map (·.state) ≠ some .blocked) :
    settle s = { s with reconsider := false } := by
  have two : ∀ t : State, t.orders = s.orders → forAll monitorOrders reconsiderOne t = t := by
    intro t e
    have eo : ∀ k, t.order k = s.order k := fun k => by simp only [State.order, e]
    have step : ∀ k, reconsiderOne k t = t := fun k => reconsiderOne_of_not_blocked (by rw [eo]; exact h k)
    simp only [monitorOrders, forAll_cons, forAll_nil, step]
  by_cases hr : s.reconsider = false
  · rw [settle_of_clear hr]
    rw [← hr]
  · simp only [Bool.not_eq_false] at hr
    have e := two { s with reconsider := false } rfl
    simp [settle, settleLoop, hr, e]

/-- The statements' `calm` says exactly that an action has nothing to reconsider. -/
theorem calm_iff {s : State} :
    s.calm = true ↔ s.reconsider = false ∧ ∀ k, (s.order k).map (·.state) ≠ some .blocked := by
  have all : ∀ k : OrderSlot, k ∈ allOrders := by decide
  simp only [State.calm, Bool.and_eq_true, Bool.not_eq_true', List.all_eq_true, decide_eq_true_eq]
  exact ⟨fun h => ⟨h.1, fun k => h.2 k (all k)⟩, fun h => ⟨h.1, fun k _ => h.2 k⟩⟩

/-- R113: the search finds a monitor slot. -/
theorem windSlot_monitor {s : State} {k : OrderSlot} (h : s.windSlot = some k) : 6 ≤ k.val := by
  have mem : ∀ {j : OrderSlot}, j ∈ monitorOrders → 6 ≤ j.val := by decide
  unfold State.windSlot at h
  split at h
  · rename_i j e
    cases h
    exact mem (List.mem_of_find?_eq_some e)
  · exact mem (List.mem_of_find?_eq_some h)

/-- R113: the request for a wind retraction order. -/
theorem ran_windRequest (a : Asm) (s : State) : Ran s (windRequest a s) := by
  unfold windRequest
  split
  · exact Ran.refl s
  · split
    · exact Ran.refl s
    · rename_i k hk
      dsimp only
      refine Ran.trans ?_ (ran_wantReconsider _)
      have h1 : Ran s (if (s.order k).isSome then s.freeOrder k else s) := by
        split
        · exact ran_freeOrder s k
        · exact Ran.refl s
      refine h1.trans (Ran.of_orders rfl fun g => g.setOrder ?_)
      exact ⟨fun _ => windSlot_monitor hk, fun _ => rfl⟩

/-! ## Supersede and handover -/

theorem ran_retarget (c : Chan) (t : Target) (p : Profile) (s : State) : Ran s (retarget c t p s) :=
  ((ran_setChan _ _ s).trans (evaluated_emitReport _ _ _ _).ran.when').trans (handed_handOn _ _ _).ran

theorem ran_handClaim (kOld kNew : OrderSlot) (c : Chan) (s : State) : Ran s (handClaim kOld kNew c s) := by
  have h := ran_modOrder (s.setClaim c (some kNew)) kOld
    (fun o => o.modEntry c fun e => { e with state := .halted }) fun _ => rfl
  refine Ran.trans ((ran_setClaim _ _ s).trans h) ?_
  exact ran_modOrder _ _ _ fun _ => rfl

theorem ran_handRetarget (new : Order) (profile : Chan → Profile) (c : Chan) (s : State) :
    Ran s (handRetarget new profile c s) := by
  unfold handRetarget
  split
  · exact ran_retarget _ _ _ s
  · exact Ran.refl s

/-- R104: channels are handed over. -/
theorem ran_handOver (kOld kNew : OrderSlot) (new : Order) (cs : List Chan) (s : State) :
    Ran s (handOver kOld kNew new cs s) :=
  (Ran.forAll fun c _ t => ran_handClaim kOld kNew c t).trans (Ran.forAll fun c _ t => ran_handRetarget _ _ c t)

theorem ran_passOrAwait (kOld kNew : OrderSlot) (old : Order) (c : Chan) (s : State) :
    Ran s (passOrAwait kOld kNew old c s) := by
  unfold passOrAwait
  split
  · split
    · exact (ran_setSucc _ _ s).trans (ran_modOrder _ _ _ fun _ => rfl)
    · exact ran_setClaim _ _ s
  · exact Ran.refl s

/-- R41, R103: channels pass to a new order or are awaited. -/
theorem ran_passChannels (kOld kNew : OrderSlot) (old : Order) (cs : List Chan) (s : State) :
    Ran s (passChannels kOld kNew old cs s) :=
  (Ran.forAll fun c _ t => ran_passOrAwait kOld kNew old c t).trans (Ran.forAll fun c _ t => (handed_partTwin c t).ran)

theorem ran_supersedeRest (kOld kNew : OrderSlot) (cs : List Chan) (s : State) :
    Ran s (supersedeRest kOld kNew cs s) := by
  unfold supersedeRest
  split
  · exact Ran.refl s
  · rename_i old _
    have h1 := ran_passChannels kOld kNew old cs s
    dsimp only
    split
    · exact h1.trans (ran_easeOut _ _ _ _)
    · exact h1.trans (ran_endOrder _ _ _ _)

/-- R103, R104: an order is superseded. -/
theorem ran_supersedeOne (kNew : OrderSlot) (new : Order) (cs : List Chan) (kOld : OrderSlot) (s : State) :
    Ran s (supersedeOne kNew new cs kOld s) := by
  unfold supersedeOne
  split
  · exact Ran.refl s
  · rename_i old _
    split
    · exact ran_supersedeRest _ _ _ s
    · exact ran_supersedeRest _ _ _ s
    · exact ran_supersedeRest _ _ _ s
    · exact (ran_handOver _ _ _ _ s).trans (ran_supersedeRest _ _ _ _)
    · exact ran_passChannels _ _ old cs s
    all_goals exact Ran.refl s

/-! ## Creation -/

theorem ran_claimFree (k : OrderSlot) (c : Chan) (s : State) : Ran s (claimFree k c s) := by
  unfold claimFree
  split
  · exact ran_setClaim _ _ s
  · exact Ran.refl s

theorem ran_of_store {s t : State} {x : Store} (e : t = { s with store := x }) (st : x.staging = s.store.staging)
    (op : ∀ o, x.op = some o → ∃ p, s.store.op = some p ∧ o.step = p.step ∧ o.place = p.place) : Ran s t := by
  subst e
  refine ⟨rfl, rfl, rfl, rfl, rfl, rfl, st, rfl, fun h o ho => ?_, HoldsSound.of_eq rfl, OrdersSound.of_eq rfl⟩
  obtain ⟨p, hp, es, ep⟩ := op o ho
  have := h p hp
  simp only [Operation.inRange, es, ep] at this ⊢
  exact this

theorem ran_suspend {op : Operation} (x : HaltedFrom) {s : State} (h : s.store.op = some op) :
    Ran s (suspend op x s) :=
  ran_of_store rfl rfl fun o ho => by
    simp only [Option.some.injEq] at ho
    subst ho
    exact ⟨op, h, rfl, rfl⟩

/-- R172: the store suspends when it must. -/
theorem ran_suspendIfDue (s : State) : Ran s (suspendIfDue s) := by
  unfold suspendIfDue
  split
  · exact Ran.refl s
  · rename_i op h
    split
    · exact Ran.refl s
    · split
      · exact ran_suspend _ h
      · exact ran_suspend _ h
      all_goals exact Ran.refl s

theorem ran_queueRead (k : OrderSlot) (p : ProfileSlot) (s : State) : Ran s (queueRead k p s) := by
  have h1 : Ran s { s with store := { s.store with
      queue := s.store.queue ++ [{ order := s.orderHandle k, slot := p }] } } :=
    ran_of_store rfl rfl fun o ho => ⟨o, ho, rfl, rfl⟩
  exact h1.trans (ran_suspendIfDue _)

theorem ran_firstState (k : OrderSlot) (s : State) : Ran s (firstState k s) := by
  unfold firstState
  split
  · exact Ran.refl s
  · rename_i o ho
    have h1 : ∀ u : Order, u.owner = o.owner → Ran s (s.setOrder k u) := fun u hu => (Ran.refl s).setOrder ho hu
    split
    · refine Ran.trans ?_ (ran_queueRead _ _ _)
      exact h1 _ rfl
    · refine Ran.trans ?_ (ran_startOrder _ _)
      exact h1 _ rfl
    · split
      · exact ran_endOrder _ _ _ s
      · exact h1 _ rfl

/-- R93: an order of a party is made in a party slot. -/
theorem ran_makeOrder {k : OrderSlot} {o : Order} (s : State) (hk : k.val < 6) (ho : o.owner ≠ .monitor) :
    Ran s (makeOrder k o s) := by
  unfold makeOrder
  dsimp only
  refine Ran.trans ?_ (ran_firstState _ _)
  refine Ran.trans ?_ (Ran.forAll fun j _ t => ran_supersedeOne _ _ _ j t)
  refine Ran.trans ?_ (Ran.forAll fun c _ t => ran_claimFree _ c t)
  exact Ran.of_orders rfl fun g => g.setOrder ⟨fun e => absurd e ho, fun e => absurd e (by omega)⟩

/-- R87: the search finds a party slot. -/
theorem freePartySlot_party {s : State} {k : OrderSlot} (h : s.freePartySlot = some k) : k.val < 6 := by
  have mem : ∀ {j : OrderSlot}, j ∈ partyOrders → j.val < 6 := by decide
  exact mem (List.mem_of_find?_eq_some h)

/-- R93: a creation, accepted or refused. -/
theorem ran_createOrder {o : Order} (asked : List (Chan × Dir)) (s : State) (ho : o.owner ≠ .monitor) :
    Ran s (createOrder o asked s).1 := by
  unfold createOrder
  split
  · exact Ran.refl s
  · rename_i k hk
    dsimp only
    split
    · exact Ran.refl s
    · split
      · exact Ran.refl s
      · exact ran_makeOrder s (freePartySlot_party hk) ho

/-! ## Served reads, releases, ends -/

theorem ran_afterRead {k : OrderSlot} {o u : Order} {s : State} (hu : s.order k = some u) (ho : o.owner = u.owner) :
    Ran s (afterRead k o s) := by
  unfold afterRead
  split
  · exact (Ran.refl s).setOrder hu ho
  · have h1 : Ran s (s.setOrder k { o with state := .running }) := (Ran.refl s).setOrder hu ho
    dsimp only
    split
    · exact h1.trans (ran_startBlocked _ _)
    · exact h1.trans (ran_startOrder _ _)

/-- R96: a LOADING order takes its read. -/
theorem ran_loadingEnd (k : OrderSlot) (ok : Bool) (image : Option Image) (s : State) :
    Ran s (loadingEnd k ok image s) := by
  unfold loadingEnd
  split
  · exact Ran.refl s
  · rename_i o ho
    split
    · exact Ran.refl s
    · split
      · exact ran_endOrder _ _ _ s
      · split
        · exact ran_endOrder _ _ _ s
        · split
          · exact ran_afterRead ho rfl
          · exact ran_endOrder _ _ _ s
        · split
          · exact ran_afterRead ho rfl
          · exact ran_endOrder _ _ _ s

theorem ran_invalidateSlot (p : ProfileSlot) (s : State) : Ran s (invalidateSlot p s) := by
  unfold invalidateSlot
  split
  · exact ran_of_store rfl rfl fun o ho => ⟨o, ho, rfl, rfl⟩
  · exact Ran.refl s

/-- R173: the head of the read queue is served. -/
theorem ran_serveHead (s : State) : Ran s (serveHead s) := by
  unfold serveHead
  split
  · exact Ran.refl s
  · rename_i r rest _
    have h1 : Ran s { s with store := { s.store with queue := rest } } :=
      ran_of_store rfl rfl fun o ho => ⟨o, ho, rfl, rfl⟩
    dsimp only
    refine h1.trans ?_
    generalize State.mk .. = t
    have h2 : Ran t (when' (!imageCrcOk (t.slotBytes r.slot)) (invalidateSlot r.slot) t) :=
      (ran_invalidateSlot r.slot t).when'
    split
    · exact h2.trans (ran_loadingEnd _ _ _ _)
    · exact h2

theorem ran_releaseOrder (k : OrderSlot) (s : State) : Ran s (releaseOrder k s).1 := by
  unfold releaseOrder
  split
  · exact Ran.refl s
  · rename_i o ho
    split
    · exact Ran.refl s
    · split
      · exact Ran.refl s
      · refine Ran.trans ?_ (ran_startOrder _ _)
        exact (Ran.refl s).setOrder ho rfl

theorem ran_cancelOrder (k : OrderSlot) (s : State) : Ran s (cancelOrder k s) := by
  unfold cancelOrder
  split
  · exact Ran.refl s
  · split
    · exact ran_endOrder _ _ _ s
    · exact ran_endOrder _ _ _ s
    · exact ran_endOrder _ _ _ s
    · split
      · exact ran_easeOut _ _ _ s
      · exact ran_endOrder _ _ _ s
    all_goals exact Ran.refl s

theorem ran_stopAllOrder (k : OrderSlot) (s : State) : Ran s (stopAllOrder k s) := by
  unfold stopAllOrder
  split
  · refine Ran.trans ?_ (ran_endOrder _ _ _ _)
    exact ran_modOrder _ _ _ fun _ => rfl
  · exact Ran.refl s

end Sys2Proof.Laws
end

