-- ==== Sys2Proof/Laws/Actions.lean ====
section
/-! SUPPORT. The chassis lines, the wind, the meter, the timers of records and the rules of hold and order requests: runs in
the sense of `Ran`, or, where the tilt meter, the array or the staging buffer changes, of the weaker `Kept`. -/
namespace Sys2Proof.Laws
open Sys2Proof.Machine

/-! ## Lines and wind -/

theorem ran_setMon (s : State) (m : Monitor) : Ran s { s with mon := m } :=
  Ran.of_same rfl rfl rfl rfl rfl rfl rfl rfl rfl rfl rfl

theorem ran_takeRoad (line : RoadLine) (active : Bool) (s : State) : Ran s (takeRoad line active s) :=
  (ran_setMon s _).trans (evaluated_evalRoad _).ran

theorem ran_takeLowv (active : Bool) (s : State) : Ran s (takeLowv active s) := ran_setMon s _

/-- R70: an on-delay that runs out. -/
theorem ran_lowvOnExpires (s : State) : Ran s (lowvOnExpires s) := by
  unfold lowvOnExpires
  split
  · exact (ran_setMon s _).trans (evaluated_evalLowv _).ran
  all_goals exact Ran.refl s

/-- R70: an off-delay that runs out. -/
theorem ran_lowvOffExpires (s : State) : Ran s (lowvOffExpires s) := by
  unfold lowvOffExpires
  split
  · exact (ran_setMon s _).trans (evaluated_evalLowv _).ran
  all_goals exact Ran.refl s

theorem ran_takeEstp (active : Bool) (s : State) : Ran s (takeEstp active s) :=
  (ran_setMon s _).trans (evaluated_evalEstop _).ran

theorem ran_takePulse (s : State) : Ran s (takePulse s) := ran_setMon s _

/-- R75: a trip of the wind logic. -/
theorem ran_windTrip (s : State) : Ran s (windTrip s) :=
  ((ran_setMon s _).trans (evaluated_evalWind _).ran).trans (Ran.forAll fun a _ t => ran_windRequest a t)

theorem ran_judgeWind (speed : Nat) (s : State) : Ran s (judgeWind speed s) := by
  have h := (evaluated_raiseIf (decide (s.setup.wind.caution ≤ speed ∧ s.mon.lastSpeed < s.setup.wind.caution))
    .windCaution s).ran
  unfold judgeWind
  dsimp only
  generalize raiseIf _ _ s = t at h ⊢
  split
  all_goals
    split
    · exact h.trans (ran_windTrip t)
    · exact h.trans (ran_setMon t _)

/-- R73: a wind window expires. -/
theorem ran_windowEnds (s : State) : Ran s (windowEnds s) := by
  unfold windowEnds
  split
  · exact (ran_judgeWind _ s).trans (ran_setMon _ _)
  · exact Ran.refl s

/-- R76: the calm timer expires. -/
theorem ran_calmEnds (s : State) : Ran s (calmEnds s) := by
  unfold calmEnds
  split
  · exact (ran_setMon s _).trans (evaluated_evalWind _).ran
  · exact Ran.refl s

/-! ## The leveller's timers -/

theorem ran_solveFails (s : State) : Ran s (solveFails s) := by
  unfold solveFails
  split
  · exact ran_endOrder _ _ _ s
  · exact Ran.refl s

theorem ran_solveCheck (s : State) : Ran s (solveCheck s) := by
  unfold solveCheck
  split
  · split
    · exact (ran_of_lev rfl).trans (ran_solveDecision _ _ _ _)
    · exact Ran.refl s
  · exact Ran.refl s

/-- R141: the solve timer expires. -/
theorem ran_solveEnds (s : State) : Ran s (solveEnds s) := by
  unfold solveEnds
  split
  · exact (ran_of_lev rfl).trans (ran_solveFails _)
  · exact Ran.refl s

/-- R144: the settle timer expires. -/
theorem ran_settleEnds (s : State) : Ran s (settleEnds s) := by
  unfold settleEnds
  split
  · dsimp only
    refine Ran.trans (ran_of_lev (x := { s.lev with settleTimer := none }) rfl) ?_
    split
    · exact ran_settleDecision _ _
    · exact Ran.refl _
  · exact Ran.refl s

/-! ## Timers of records -/

/-- R99: an armed timer expires. -/
theorem ran_armedEnds (k : OrderSlot) (s : State) : Ran s (armedEnds k s) := by
  unfold armedEnds
  split
  · exact Ran.refl s
  · split
    · exact (ran_endOrder _ _ _ s).trans (ran_raise _ _)
    · exact Ran.refl s

/-- R112: a linger runs out. -/
theorem ran_lingerEnds (k : OrderSlot) (s : State) : Ran s (lingerEnds k s) := by
  unfold lingerEnds
  split
  · exact Ran.refl s
  · split
    · exact ran_freeOrder s k
    · exact Ran.refl s

/-- R59: the expiry of a party hold runs out. -/
theorem ran_holdEnds (h : HoldSlot) (s : State) : Ran s (holdEnds h s) := by
  unfold holdEnds
  split
  · exact Ran.refl s
  · split
    · exact ((evaluated_removeHold h s).trans (evaluated_raise _ _)).ran
    · exact Ran.refl s

/-! ## Rules of hold requests -/

theorem freeHoldSlot_party {s : State} {h : HoldSlot} (e : s.freeHoldSlot partyHolds = some h) : 20 ≤ h.val := by
  have mem : ∀ {j : HoldSlot}, j ∈ partyHolds → 20 ≤ j.val := by decide
  exact mem (freeHoldSlot_some e).1

/-- R57: PLACE_HOLD. -/
theorem ran_rulePlaceHold (party : Byte) (args : List Byte) (s : State) : Ran s (rulePlaceHold party args s).1 := by
  unfold rulePlaceHold
  split
  · split
    · exact Ran.refl s
    · split
      · exact Ran.refl s
      · rename_i h e
        exact (evaluated_enterParty s (freeHoldSlot_party e) (by simp [partyHold])).ran
  · exact Ran.refl s

theorem ran_onPartyHold (party handle : Byte) (act : HoldSlot → Hold → State) (s : State)
    (h : ∀ k x, s.hold k = some x → Ran s (act k x)) : Ran s (onPartyHold party handle act s).1 := by
  unfold onPartyHold
  split
  · exact Ran.refl s
  · split
    · exact Ran.refl s
    · rename_i x e
      split
      · exact Ran.refl s
      · split
        · exact Ran.refl s
        · exact h _ x e

/-- R58: LIFT_HOLD. -/
theorem ran_ruleLiftHold (party : Byte) (args : List Byte) (s : State) : Ran s (ruleLiftHold party args s).1 :=
  ran_onPartyHold _ _ _ s fun k _ _ => (evaluated_removeHold k s).ran

/-- R59: RENEW_HOLD. -/
theorem ran_ruleRenewHold (party : Byte) (args : List Byte) (s : State) : Ran s (ruleRenewHold party args s).1 :=
  ran_onPartyHold _ _ _ s fun _ x e =>
    (evaluated_setHold_again (y := { x with expiry := expiryOf (at16 args 1) }) e rfl rfl rfl rfl rfl rfl).ran

theorem ran_evalCleared (x : Hold) (s : State) : Ran s (evalCleared x s) := by
  unfold evalCleared
  split
  · exact (evaluated_evalEstop s).ran
  · split
    · exact (evaluated_evalFault _ s).ran
    · exact Ran.refl s
  · exact Ran.refl s

/-- R63: CLEAR_HOLD. -/
theorem ran_ruleClearHold (args : List Byte) (s : State) : Ran s (ruleClearHold args s).1 := by
  unfold ruleClearHold
  split
  · exact Ran.refl s
  · split
    · exact Ran.refl s
    · split
      · exact Ran.refl s
      · split
        · exact Ran.refl s
        · exact (evaluated_removeHold _ s).ran.trans (ran_evalCleared _ _)

/-! ## Rules of order requests -/

theorem targetAll_owner (s : State) (ts : List TargetEntry) (o : Order) : (s.targetAll ts o).owner = o.owner := by
  rfl

/-- R94: ORDER_TRAVEL. -/
theorem ran_ruleOrderTravel (party : Byte) (args : List Byte) (s : State) : Ran s (ruleOrderTravel party args s).1 := by
  unfold ruleOrderTravel
  split
  · exact Ran.refl s
  · repeat' split
    all_goals first
      | exact Ran.refl s
      | exact ran_createOrder _ s (by rw [targetAll_owner]; simp [newOrder])

/-- R125: ORDER_JOG. -/
theorem ran_ruleOrderJog (party : Byte) (args : List Byte) (s : State) : Ran s (ruleOrderJog party args s).1 := by
  unfold ruleOrderJog
  split
  · split
    · exact Ran.refl s
    · exact ran_createOrder _ s (by simp [State.jogOrder, newOrder])
  · exact Ran.refl s

/-- R138: ORDER_LEVEL. -/
theorem ran_ruleOrderLevel (party : Byte) (args : List Byte) (s : State) : Ran s (ruleOrderLevel party args s).1 := by
  unfold ruleOrderLevel
  split
  · exact Ran.refl s
  · split
    · exact Ran.refl s
    · dsimp only
      split
      · exact Ran.refl s
      · exact ran_createOrder _ s (by simp [newOrder])

/-- R147: ORDER_STOW. -/
theorem ran_ruleOrderStow (party : Byte) (args : List Byte) (s : State) : Ran s (ruleOrderStow party args s).1 := by
  unfold ruleOrderStow
  split
  · exact Ran.refl s
  · split
    · exact Ran.refl s
    · exact ran_createOrder _ s (by simp [newOrder, Order.mapEntries])

/-- R95: ORDER_RECALL. -/
theorem ran_ruleOrderRecall (party : Byte) (args : List Byte) (s : State) : Ran s (ruleOrderRecall party args s).1 := by
  unfold ruleOrderRecall
  split
  · exact Ran.refl s
  · dsimp only
    split
    · exact Ran.refl s
    · split
      · exact Ran.refl s
      · unfold makeRecall
        dsimp only
        split
        · split
          · exact Ran.refl s
          · exact ran_createOrder _ s (by simp [newOrder])
        · exact ran_createOrder _ s (by simp [newOrder])

theorem ran_amendOrder {k : OrderSlot} {o : Order} (a : Asm) (t : OrderTarget) {s : State} (ho : s.order k = some o) :
    Ran s (amendOrder k a t o s) := by
  unfold amendOrder
  dsimp only
  have h1 : Ran s (s.setOrder k (s.amended a t o)) := (Ran.refl s).setOrder ho rfl
  split
  · exact h1.trans (Ran.forAll fun c _ u => ran_retarget c _ _ u)
  · exact h1

/-- R101: AMEND. -/
theorem ran_ruleAmend (party : Byte) (args : List Byte) (s : State) : Ran s (ruleAmend party args s).1 := by
  unfold ruleAmend
  split
  · exact Ran.refl s
  · split
    · exact Ran.refl s
    · rename_i o ho
      split
      · exact Ran.refl s
      · unfold amendFound
        repeat' split
        all_goals first
          | exact Ran.refl s
          | exact ran_amendOrder _ _ ho

theorem ran_onOrder (party handle : Byte) (act : OrderSlot → Order → Reply) (s : State)
    (h : ∀ k o, s.order k = some o → Ran s (act k o).1) : Ran s (onOrder party handle act s).1 := by
  unfold onOrder
  split
  · exact Ran.refl s
  · split
    · exact Ran.refl s
    · rename_i o ho
      split
      · exact Ran.refl s
      · exact h _ o ho

/-- R102: CANCEL. -/
theorem ran_ruleCancel (party : Byte) (args : List Byte) (s : State) : Ran s (ruleCancel party args s).1 :=
  ran_onOrder _ _ _ s fun k _ _ => ran_cancelOrder k s

/-- R100: RELEASE. -/
theorem ran_ruleRelease (party : Byte) (args : List Byte) (s : State) : Ran s (ruleRelease party args s).1 :=
  ran_onOrder _ _ _ s fun k o _ => by
    dsimp only
    split
    · exact Ran.refl s
    · have h := ran_releaseOrder k s
      split
      · exact h
      · exact Ran.refl s

/-- R112: RETIRE. -/
theorem ran_ruleRetire (party : Byte) (args : List Byte) (s : State) : Ran s (ruleRetire party args s).1 :=
  ran_onOrder _ _ _ s fun k o _ => by
    split
    · exact Ran.refl s
    · exact ran_freeOrder s k

/-- R106: STOP_ALL. -/
theorem ran_ruleStopAll (s : State) : Ran s (ruleStopAll s).1 := by
  have h1 : Ran s (forAll allChans takeCut s) := Ran.forAll fun c _ t => (moved_takeCut c t).ran
  have h2 : ∀ t, Ran t (forAll allOrders stopAllOrder t) := fun t => Ran.forAll fun k _ u => ran_stopAllOrder k u
  unfold ruleStopAll
  dsimp only
  exact (h1.trans (h2 _)).trans (ran_raise _ _)

/-! ## What every operation keeps -/

/-- What every operation keeps of the invariant, a reset among them. -/
structure Kept (s t : State) : Prop where
  array   : ArraySound s → ArraySound t
  steps   : ArraySound s → StepInRange s → StepInRange t
  staging : StagingSize s → StagingSize t
  holds   : HoldsSound s → HoldsSound t
  orders  : OrdersSound s → OrdersSound t
  members : MembersAgree s → MembersAgree t

theorem Kept.refl (s : State) : Kept s s := ⟨id, fun _ => id, id, id, id, id⟩

theorem Kept.trans {s t u : State} (h : Kept s t) (g : Kept t u) : Kept s u :=
  ⟨fun x => g.array (h.array x), fun a x => g.steps (h.array a) (h.steps a x), fun x => g.staging (h.staging x),
    fun x => g.holds (h.holds x), fun x => g.orders (h.orders x), fun x => g.members (h.members x)⟩

theorem Ran.kept {s t : State} (h : Ran s t) : Kept s t :=
  ⟨fun x => by rw [ArraySound, h.nv]; exact x, fun _ x => h.steps x,
    fun x => by rw [StagingSize, h.staging]; exact x, h.holds, h.orders, MembersAgree.of_eq h.setup⟩

theorem Kept.forAll {α : Type} {f : α → State → State} {xs : List α} {s : State} (h : ∀ x ∈ xs, ∀ s, Kept s (f x s)) :
    Kept s (forAll xs f s) :=
  forAll_keeps (Kept.refl s) fun x hx t ht => ht.trans (h x hx t)

theorem Kept.when' {b : Bool} {f : State → State} {s : State} (h : Kept s (f s)) : Kept s (when' b f s) := by
  unfold Machine.when'
  split
  · exact h
  · exact Kept.refl s

/-- An operation that leaves the parts of the invariant alone. -/
theorem Kept.of_same {s t : State} (setup : t.setup = s.setup) (nv : t.nv = s.nv) (store : t.store.op = s.store.op)
    (staging : t.store.staging = s.store.staging) (holds : t.holds = s.holds) (orders : t.orders = s.orders) : Kept s t :=
  ⟨fun x => by rw [ArraySound, nv]; exact x, fun _ x o ho => x o (by rw [← store]; exact ho),
    fun x => by rw [StagingSize, staging]; exact x, HoldsSound.of_eq holds, OrdersSound.of_eq orders,
    MembersAgree.of_eq setup⟩

/-- A new working setup whose members agree. -/
theorem Kept.of_setup {s : State} {x : Setup} (members : ∀ c : Chan, x.channels[c].assembly = memberOf x.asms c) :
    Kept s { s with setup := x } :=
  ⟨id, fun _ => id, id, HoldsSound.of_eq rfl, OrdersSound.of_eq rfl, fun _ => members⟩

/-- What keeps the parts keeps the invariant, once the wish to reconsider is settled. -/
theorem Kept.inv {s t : State} (h : Kept s t) (i : Inv s) (b : t.reconsider = false) : Inv t :=
  inv_of (h.array i.array) (h.steps i.array i.step) (h.staging i.staging) (h.holds (Inv.holdsSound i))
    (h.orders (Inv.ordersSound i)) (h.members i.members) b

/-! ## The tilt meter -/

theorem kept_takeTilt (axis : TiltAxis) (high period : Nat) (s : State) : Kept s (takeTilt axis high period s) := by
  unfold takeTilt
  split
  · refine Kept.trans ?_ (ran_solveCheck _).kept
    cases axis <;> exact Kept.of_same rfl rfl rfl rfl rfl rfl
  · exact Kept.refl s

theorem kept_axisEnds (axis : TiltAxis) (s : State) : Kept s (axisEnds axis s) := by
  cases axis
  all_goals
    simp only [axisEnds]
    split
    · refine Kept.trans ?_ (ran_solveFails _).kept
      exact Kept.of_same rfl rfl rfl rfl rfl rfl
    · exact Kept.refl s

/-- R188: the falling edge of RLS. -/
theorem kept_takeRls (s : State) : Kept s (takeRls s) := by
  unfold takeRls
  refine Kept.trans ?_ (Ran.forAll fun k _ t => ran_releaseOrder k t).kept
  exact Kept.of_same rfl rfl rfl rfl rfl rfl

/-! ## The store -/

theorem kept_setDir (p : ProfileSlot) (e : DirEntry) (s : State) : Kept s (setDir p e s) :=
  Kept.of_same rfl rfl rfl rfl rfl rfl

theorem kept_setMarks (x : OpPlace) (mark : Bool) (s : State) : Kept s (setMarks x mark s) :=
  Kept.forAll fun _ _ _ => ⟨id, fun _ => id, id, HoldsSound.of_eq rfl, OrdersSound.of_eq rfl, MembersAgree.of_eq rfl⟩

/-- The store takes a new operation record. -/
theorem kept_of_op {s t : State} (setup : t.setup = s.setup) (nv : t.nv = s.nv) (staging : t.store.staging = s.store.staging)
    (op : ∀ o, t.store.op = some o → o.inRange = true) (holds : t.holds = s.holds) (orders : t.orders = s.orders) :
    Kept s t :=
  ⟨fun x => by rw [ArraySound, nv]; exact x, fun _ _ => op, fun x => by rw [StagingSize, staging]; exact x,
    HoldsSound.of_eq holds, OrdersSound.of_eq orders, MembersAgree.of_eq setup⟩

/-- R160 to R162: an operation begins. -/
theorem kept_beginOp (kind : OpKind) (place : OpPlace) (image : List Byte) (s : State) :
    Kept s (beginOp kind place image s) := by
  unfold beginOp
  dsimp only
  refine (kept_setMarks place true s).trans ?_
  have ok : ∀ o : Operation, o.step = .erase 0 → o.inRange = true := by
    intro o ho
    simp only [Operation.inRange, ho]
    cases o.place <;> rfl
  cases place with
  | slot p =>
    refine Kept.trans (kept_setDir p (DirEntry.plain .busy) _) ?_
    refine kept_of_op rfl rfl rfl (fun o ho => ?_) rfl rfl
    cases ho
    exact ok _ rfl
  | setupArea =>
    refine kept_of_op rfl rfl rfl (fun o ho => ?_) rfl rfl
    cases ho
    exact ok _ rfl

theorem kept_storeIdle (s : State) : Kept s (storeIdle s) :=
  kept_of_op rfl rfl rfl (fun _ ho => nomatch ho) rfl rfl

theorem kept_committed (s : State) : Kept s (committed s) := by
  unfold committed
  split
  · exact Kept.of_same rfl rfl rfl rfl rfl rfl
  · exact Kept.refl s

/-- R160 to R162: an operation ends by its verify. -/
theorem kept_endOp (op : Operation) (passed : Bool) (entry : DirEntry) (s : State) : Kept s (endOp op passed entry s) := by
  unfold endOp
  dsimp only
  refine Kept.trans ?_ (ran_raise _ _).kept
  refine Kept.trans ?_ (kept_storeIdle _)
  have h1 : Kept s (when' passed (setMarks op.place false) s) := (kept_setMarks op.place false s).when'
  refine h1.trans ?_
  split
  · exact kept_setDir _ _ _
  · exact (kept_committed _).when'

theorem kept_verify (op : Operation) (s : State) : Kept s (verify op s) := by
  unfold verify
  dsimp only
  repeat' split
  all_goals exact kept_endOp _ _ _ s

/-- R153, R159: a unit of an operation lies in the array. -/
theorem unit_inArray (x : OpPlace) {u : Nat} (h : u < x.units) : x.base + 64 * u + 64 ≤ arraySize := by
  cases x with
  | slot p =>
    have := p.isLt
    simp only [OpPlace.units, OpPlace.base, arraySize] at h ⊢
    omega
  | setupArea =>
    simp only [OpPlace.units, OpPlace.base, arraySize] at h ⊢
    omega

/-- R153, R159: a row of an operation lies in the array. -/
theorem row_inArray (x : OpPlace) {r : Nat} (h : r < x.units * 4) : x.base + 16 * r + 16 ≤ arraySize := by
  cases x with
  | slot p =>
    have := p.isLt
    simp only [OpPlace.units, OpPlace.base, arraySize] at h ⊢
    omega
  | setupArea =>
    simp only [OpPlace.units, OpPlace.base, arraySize] at h ⊢
    omega

theorem slice_length (bs : List Byte) (i n : Nat) : (slice bs i n).length ≤ n := by
  simp only [slice, List.length_take]
  exact Nat.min_le_left _ _

/-- The array takes a step's bytes, and the invariant holds with the step that stood. -/
theorem kept_withMem {s : State} {m : Memory} (wf : s.nv.mem.wf = true → m.wf = true)
    (inside : s.nv.mem.inArray = true → m.inArray = true) : Kept s (s.withMem m) :=
  ⟨fun x => ⟨wf x.1, inside x.2⟩, fun _ => id, id, HoldsSound.of_eq rfl, OrdersSound.of_eq rfl,
    MembersAgree.of_eq rfl⟩

end Sys2Proof.Laws
end

