-- ==== Sys2Proof/Laws/Upkeep.lean ====
section
/-! SUPPORT. The steps of the store, the setup requests, resets, the port and the clock keep the parts of the invariant
(`Kept`), and so does a command as a whole: `inv_whenUp` and `inv_takeRequest`. -/
namespace Sys2Proof.Laws
open Sys2Proof.Machine

/-! ## The steps of an operation -/

theorem kept_runStep (st : StoreState) {op : Operation} (h : op.inRange = true) (s : State) : Kept s (runStep st op s) :=
  kept_of_op rfl rfl rfl (fun o ho => by cases ho; exact h) rfl rfl

theorem kept_eraseMem {op : Operation} {u : Nat} (h : u < op.place.units) (flaws : List Host.Cell) (s : State) :
    Kept s (s.withMem ((s.nv.mem.erase (op.place.base + 64 * u) 64).flaw (op.place.base + 64 * u) 64 flaws)) :=
  kept_withMem (fun x => wf_flaw (wf_erase x _ _) _ _ _)
    fun x => inArray_flaw (inArray_erase x _ _) (unit_inArray op.place h) _

theorem kept_rowMem {op : Operation} {r : Nat} (h : r < op.place.units * 4) (flaws : List Host.Cell) (s : State) :
    Kept s { s with nv := s.nv.programRow (op.place.base + 16 * r) (slice op.image (16 * r) 16) flaws } := by
  have hr := row_inArray op.place h
  have hl := slice_length op.image (16 * r) 16
  exact ⟨fun x => ⟨wf_flaw (wf_program x.1 _ _ _) _ _ _, inArray_flaw (inArray_program x.2 _ (by omega)) hr _⟩,
    fun _ => id, id, HoldsSound.of_eq rfl, OrdersSound.of_eq rfl, MembersAgree.of_eq rfl⟩

/-- R160 to R162: an erase step ends. -/
theorem kept_eraseEnd (flaws : List Host.Cell) {s : State} (i : StepInRange s) : Kept s (eraseEnd flaws s) := by
  unfold eraseEnd
  split
  · rename_i op _ ho
    have hi := i op ho
    split
    · rename_i u hu
      simp only [Operation.inRange, hu, decide_eq_true_eq] at hi
      have h1 := kept_eraseMem hi flaws s
      dsimp only
      split
      · rename_i hn
        exact h1.trans (kept_runStep _ (by simp [Operation.inRange, eraseStep, hn]) _)
      · split
        · exact h1.trans (kept_verify _ _)
        all_goals
          have h0 : (rowStep op 0).inRange = true := by
            have h : ∀ x : OpPlace, decide (0 < x.units * 4) = true := fun x => by cases x <;> rfl
            exact h op.place
          exact h1.trans (kept_runStep _ h0 _)
    · exact Kept.refl s
  · exact Kept.refl s

/-- R160, R162: a row step ends. -/
theorem kept_rowEnd (flaws : List Host.Cell) {s : State} (i : StepInRange s) : Kept s (rowEnd flaws s) := by
  unfold rowEnd
  split
  · rename_i op _ ho
    have hi := i op ho
    split
    · rename_i r hr
      simp only [Operation.inRange, hr, decide_eq_true_eq] at hi
      have h1 := kept_rowMem hi flaws s
      dsimp only
      split
      · rename_i hn
        exact h1.trans (kept_runStep _ (by simp [Operation.inRange, rowStep, hn]) _)
      · exact h1.trans (kept_verify _ _)
    · exact Kept.refl s
  · exact Kept.refl s

/-- R172: the guard comes to be met. -/
theorem ran_meetGuard (s : State) : Ran s (meetGuard s) := by
  unfold meetGuard
  split
  all_goals first
    | exact Ran.refl s
    | rename_i op _ ho
      refine Ran.trans ?_ (ran_suspendIfDue _)
      exact ran_of_store rfl rfl fun o e => by cases e; exact ⟨op, ho, rfl, rfl⟩

/-- R172: the halted step resumes. -/
theorem ran_resumeOp (s : State) : Ran s (resumeOp s) := by
  unfold resumeOp
  split
  · exact Ran.refl s
  · rename_i op ho
    exact ran_of_store rfl rfl fun o e => by cases e; exact ⟨op, ho, rfl, rfl⟩

/-- R172: the halt completes. -/
theorem ran_haltDone (s : State) : Ran s (haltDone s) := by
  unfold haltDone
  split
  · exact (ran_serveHead s).trans (ran_resumeOp _)
  · exact Ran.refl s

/-- R171: an IDLE store serves its queue. -/
theorem ran_serveIdle (s : State) : Ran s (serveIdle s) := by
  unfold serveIdle
  split
  · exact ran_serveHead s
  · exact Ran.refl s

/-! ## Store requests -/

theorem stageBytes_length (buf : List Byte) (at' : Nat) (bs : List Byte) : (stageBytes buf at' bs).length = buf.length := by
  induction bs generalizing buf at' with
  | nil => rfl
  | cons b bs ih => rw [stageBytes, ih, List.length_set]

/-- R158: STAGE_WRITE. -/
theorem kept_ruleStageWrite (args : List Byte) (s : State) : Kept s (ruleStageWrite args s).1 := by
  unfold ruleStageWrite
  dsimp only
  split
  · exact Kept.refl s
  · exact ⟨id, fun _ => id, fun x => by simpa only [StagingSize, stageBytes_length] using x, HoldsSound.of_eq rfl,
      OrdersSound.of_eq rfl, MembersAgree.of_eq rfl⟩

theorem kept_onSlot (p : ProfileSlot) (act : State → Reply) (s : State) (h : Kept s (act s).1) :
    Kept s (onSlot p act s).1 := by
  unfold onSlot
  repeat' split
  all_goals first
    | exact Kept.refl s
    | exact h

/-- R163: SAVE_PROFILE. -/
theorem kept_ruleSaveProfile (args : List Byte) (s : State) : Kept s (ruleSaveProfile args s).1 := by
  unfold ruleSaveProfile
  split
  · exact Kept.refl s
  · refine kept_onSlot _ _ s ?_
    split
    · exact Kept.refl s
    · dsimp only
      exact kept_beginOp _ _ _ s

/-- R167: ERASE_PROFILE. -/
theorem kept_ruleEraseProfile (args : List Byte) (s : State) : Kept s (ruleEraseProfile args s).1 := by
  unfold ruleEraseProfile
  split
  · exact Kept.refl s
  · refine kept_onSlot _ _ s ?_
    dsimp only
    exact kept_beginOp _ _ _ s

/-- R169: READ_PROFILE. -/
theorem ran_ruleReadProfile (args : List Byte) (s : State) : Ran s (ruleReadProfile args s).1 := by
  unfold ruleReadProfile
  split
  · exact Ran.refl s
  · repeat' split
    all_goals first
      | exact Ran.refl s
      | exact ran_invalidateSlot _ s

/-- R196: COMMIT_SETUP. -/
theorem kept_ruleCommitSetup (s : State) : Kept s (ruleCommitSetup s).1 := by
  unfold ruleCommitSetup
  split
  · exact Kept.refl s
  · dsimp only
    exact kept_beginOp _ _ _ s

/-! ## Setup requests -/

/-- A setup whose channels and assemblies stand. -/
theorem kept_setup (s : State) (x : Setup) (channels : x.channels = s.setup.channels := by rfl)
    (asms : x.asms = s.setup.asms := by rfl) : Kept s { s with setup := x } :=
  ⟨id, fun _ => id, id, HoldsSound.of_eq rfl, OrdersSound.of_eq rfl, fun h c => by
    have := h c
    simp only [State.cfg, channels, asms] at this ⊢
    exact this⟩

/-- A channel's setup that keeps its assembly. -/
theorem kept_setCfg (c : Chan) (x : ChannelSetup) (s : State) (h : x.assembly = s.asmOf c) : Kept s (setCfg c x s) :=
  ⟨id, fun _ => id, id, HoldsSound.of_eq rfl, OrdersSound.of_eq rfl, fun m d => by
    have hd := m d
    simp only [State.cfg, setCfg, Fin.getElem_fin] at hd ⊢
    by_cases e : c.val = d.val
    · obtain rfl : c = d := Fin.ext e
      rw [Vector.getElem_set_self]
      exact h.trans hd
    · rw [Vector.getElem_set_ne _ _ e]
      exact hd⟩

/-- One round of `withMembers`. -/
theorem withMembers_round (cs : List Chan) (x : Setup) :
    let y := cs.foldl (fun (y : Setup) (c : Chan) =>
      { y with channels := y.channels.set c { y.channels[c] with assembly := memberOf x.asms c } }) x
    y.asms = x.asms ∧ ∀ c : Chan, y.channels[c].assembly =
      if c ∈ cs then memberOf x.asms c else x.channels[c].assembly := by
  suffices h : ∀ (asms : Vector AsmSetup 8) (cs : List Chan) (z : Setup),
      let y := cs.foldl (fun (y : Setup) (c : Chan) =>
        { y with channels := y.channels.set c { y.channels[c] with assembly := memberOf asms c } }) z
      y.asms = z.asms ∧ ∀ c : Chan, y.channels[c].assembly =
        if c ∈ cs then memberOf asms c else z.channels[c].assembly from h x.asms cs x
  intro asms cs
  induction cs with
  | nil => intro z; exact ⟨rfl, fun c => by simp⟩
  | cons d ds ih =>
    intro z
    simp only [List.foldl_cons]
    obtain ⟨h1, h2⟩ := ih { z with channels := z.channels.set d { z.channels[d] with assembly := memberOf asms d } }
    refine ⟨h1, fun c => ?_⟩
    rw [h2 c]
    by_cases hc : c ∈ ds
    · simp [hc]
    · by_cases e : c = d
      · subst e
        simp [hc]
      · have e' : d.val ≠ c.val := fun q => e (Fin.ext q.symm)
        simp only [hc, e, List.mem_cons, or_self, if_false, Fin.getElem_fin]
        rw [Vector.getElem_set_ne _ _ e']

/-- R30: `withMembers` makes both copies of membership agree. -/
theorem withMembers_agree (x : Setup) (c : Chan) : (withMembers x).channels[c].assembly = memberOf (withMembers x).asms c := by
  have hc : c ∈ allChans := (by decide : ∀ c : Chan, c ∈ allChans) c
  have h : (withMembers x).asms = x.asms ∧ ∀ c : Chan, (withMembers x).channels[c].assembly =
      if c ∈ allChans then memberOf x.asms c else x.channels[c].assembly := withMembers_round allChans x
  rw [h.2 c, h.1, if_pos hc]

theorem default_agree (c : Chan) : Setup.default.channels[c].assembly = memberOf Setup.default.asms c := by
  revert c
  decide

/-- R203: a setup that an image gives agrees in both copies. -/
theorem decodeSetup_agree {bs : List Byte} {x : Setup} (h : decodeSetup bs = some x) (c : Chan) :
    x.channels[c].assembly = memberOf x.asms c := by
  unfold decodeSetup at h
  split at h
  · unfold keepIf at h
    split at h
    · cases h
      exact withMembers_agree _ c
    · cases h
  · cases h

theorem areaSetup_agree {nv : NvArray} {x : Setup} (h : areaSetup nv = some x) (c : Chan) :
    x.channels[c].assembly = memberOf x.asms c := by
  unfold areaSetup at h
  dsimp only at h
  split at h
  · cases h
  · exact decodeSetup_agree h c

theorem kept_setChan (c : Chan) (x : Channel) (s : State) : Kept s (s.setChan c x) := (ran_setChan c x s).kept

theorem kept_recompute {held now : Bool} {rises falls : State → State} {s : State} (h : Kept s (rises s))
    (g : Kept s (falls s)) : Kept s (recompute held now rises falls s) := by
  unfold recompute
  repeat' split
  all_goals first
    | exact Kept.refl s
    | exact h
    | exact g

theorem kept_recomputeIn (c : Chan) (s : State) : Kept s (recomputeIn c s) :=
  (kept_setChan c _ s).trans (kept_recompute (moved_takeIn c _).ran.kept (moved_takeEndGone c .inEnd _).ran.kept)

theorem kept_recomputeOut (c : Chan) (s : State) : Kept s (recomputeOut c s) :=
  (kept_setChan c _ s).trans (kept_recompute (moved_takeOut c _).ran.kept (moved_takeEndGone c .outEnd _).ran.kept)

theorem kept_recomputeAux (c : Chan) (s : State) : Kept s (recomputeAux c s) :=
  (kept_setChan c _ s).trans (kept_recompute (ran_takeAux c true _).kept (ran_takeAux c false _).kept)

theorem kept_recomputeTrp (c : Chan) (s : State) : Kept s (recomputeTrp c s) :=
  kept_recompute (moved_takeTrp c s).ran.kept (moved_takeTrpGone c s).ran.kept

theorem kept_remeasure (c : Chan) (s : State) : Kept s (remeasure c s) := (moved_updChan c _ s).ran.kept

theorem kept_refilter (c : Chan) (s : State) : Kept s (refilter c s) := by
  unfold refilter
  dsimp only
  exact ((kept_recomputeIn c s).when'.trans (kept_recomputeOut c _).when').trans (kept_recomputeAux c _).when'

theorem kept_holdTolerance (old : ChannelSetup) (c : Chan) (s : State) : Kept s (holdTolerance old c s) :=
  kept_setChan c _ s

/-- R3: the live effects of a channel's new setup. -/
theorem kept_channelEffects (old : ChannelSetup) (c : Chan) (s : State) : Kept s (channelEffects old c s) := by
  unfold channelEffects
  dsimp only
  refine Kept.trans ?_ (kept_refilter c _).when'
  refine Kept.trans ?_ (kept_recomputeTrp c _).when'
  refine Kept.trans ?_ (kept_recomputeAux c _).when'
  refine Kept.trans ?_ (kept_recomputeOut c _).when'
  refine Kept.trans ?_ (kept_recomputeIn c _).when'
  exact (kept_holdTolerance old c s).when'.trans (kept_remeasure c _).when'

theorem kept_evalAll (s : State) : Kept s (evalAll s) := (evaluated_evalAll s).ran.kept

/-- R2: SET_CHANNEL. -/
theorem kept_ruleSetChannel (args : List Byte) (s : State) : Kept s (ruleSetChannel args s).1 := by
  unfold ruleSetChannel
  dsimp only
  repeat' split
  all_goals first
    | dsimp only
      unfold writeChannels
      dsimp only
      refine Kept.trans ?_ (kept_evalAll _)
      refine Kept.trans ?_ (handed_leaveSet _).ran.kept.when'
      refine Kept.trans ?_ (Kept.forAll fun c _ t => kept_channelEffects _ c t)
      exact Kept.forAll fun c _ t => kept_setCfg c _ t rfl
    | exact Kept.refl s

theorem kept_dropContact (old : State) (c : Chan) (s : State) : Kept s (dropContact old c s) := by
  unfold dropContact
  split
  · exact Kept.refl s
  · exact kept_setChan c _ s

theorem kept_dropPairing (a : Asm) (s : State) : Kept s (dropPairing a s) := by
  unfold dropPairing
  split
  · exact Kept.refl s
  · exact (handed_setAsm a _ s).ran.kept

/-- R192: SET_ASSEMBLY. -/
theorem kept_ruleSetAssembly (args : List Byte) (s : State) : Kept s (ruleSetAssembly args s).1 := by
  unfold ruleSetAssembly
  repeat' split
  all_goals first
    | dsimp only
      unfold writeAsm
      dsimp only
      refine Kept.trans ?_ (kept_evalAll _)
      refine Kept.trans ?_ (handed_leaveSet _).ran.kept.when'
      refine Kept.trans ?_ (handed_followStance _).ran.kept
      refine Kept.trans ?_ (Kept.forAll fun a _ t => (handed_refreshAsm a t).ran.kept.trans (kept_dropPairing a _))
      refine Kept.trans ?_ (Kept.forAll fun c _ t => kept_dropContact _ c t)
      exact Kept.of_setup (withMembers_agree _)
    | exact Kept.refl s

/-- R193: SET_LEVELLER. -/
theorem kept_ruleSetLeveller (args : List Byte) (s : State) : Kept s (ruleSetLeveller args s).1 := by
  unfold ruleSetLeveller
  split
  · exact Kept.refl s
  · dsimp only
    exact (kept_setup s _).trans (kept_evalAll _)

theorem kept_windEffects (old new : WindSetup) (s : State) : Kept s (windEffects old new s) := by
  have first : ∀ u : State, u = (if old.window ≠ new.window then
      { s with mon := { s.mon with counter := 0, run := 0, window := some new.window.length } } else s) → Kept s u := by
    intro u e
    subst e
    split
    · exact (ran_setMon s _).kept
    · exact Kept.refl s
  unfold windEffects
  dsimp only
  generalize e : (if old.window ≠ new.window then _ else s) = u
  have h := first u e.symm
  split
  · split
    · exact h.trans (ran_calmEnds u).kept
    · exact h
  · exact h

/-- R194: SET_WIND. -/
theorem kept_ruleSetWind (args : List Byte) (s : State) : Kept s (ruleSetWind args s).1 := by
  unfold ruleSetWind
  split
  · exact Kept.refl s
  · dsimp only
    exact ((kept_setup s _).trans (kept_windEffects _ _ _)).trans (kept_evalAll _)

theorem kept_recomputeLine {old new : Polarity} {held raw : Bool} {take : Bool → State → State} {s : State}
    (h : ∀ b, Kept s (take b s)) : Kept s (recomputeLine old new held raw take s) := by
  unfold recomputeLine
  repeat' split
  all_goals first
    | exact Kept.refl s
    | exact h _

theorem kept_linesEffects (old new : LinesSetup) (s : State) : Kept s (linesEffects old new s) := by
  unfold linesEffects
  dsimp only
  refine Kept.trans ?_ (kept_recomputeLine fun b => (ran_takeEstp b _).kept)
  refine Kept.trans ?_ (kept_recomputeLine fun b => (ran_takeLowv b _).kept)
  refine Kept.trans ?_ (kept_recomputeLine fun b => (ran_takeRoad .pbrk b _).kept)
  exact kept_recomputeLine fun b => (ran_takeRoad .ign b s).kept

/-- R195: SET_LINES. -/
theorem kept_ruleSetLines (args : List Byte) (s : State) : Kept s (ruleSetLines args s).1 := by
  unfold ruleSetLines
  split
  · exact Kept.refl s
  · dsimp only
    exact ((kept_setup s _).trans (kept_linesEffects _ _ _)).trans (kept_evalAll _)

/-- R195: SET_SWEEP. -/
theorem kept_ruleSetSweep (args : List Byte) (s : State) : Kept s (ruleSetSweep args s).1 := by
  unfold ruleSetSweep
  repeat' split
  all_goals first
    | dsimp only
      exact (kept_setup s _).trans (kept_evalAll _)
    | exact Kept.refl s

/-- R168: SET_PROTECT. -/
theorem kept_ruleSetProtect (party : Byte) (args : List Byte) (s : State) : Kept s (ruleSetProtect party args s).1 := by
  unfold ruleSetProtect
  dsimp only
  repeat' split
  all_goals first
    | dsimp only
      exact (kept_setup s _).trans (kept_evalAll _)
    | exact Kept.refl s

/-! ## Reading requests -/

theorem kept_ruleReadNotices (s : State) : Kept s (ruleReadNotices s).1 := Kept.of_same rfl rfl rfl rfl rfl rfl

theorem kept_ruleSetNoticeMask (args : List Byte) (s : State) : Kept s (ruleSetNoticeMask args s).1 :=
  Kept.of_same rfl rfl rfl rfl rfl rfl

theorem rule_readRange (args : List Byte) (s : State) : (ruleReadRange args s).1 = s := by
  unfold ruleReadRange
  dsimp only
  repeat' split
  all_goals rfl

theorem rule_readOrder (args : List Byte) (s : State) : (ruleReadOrder args s).1 = s := by
  unfold ruleReadOrder
  repeat' split
  all_goals rfl

/-! ## A command as a whole -/

theorem kept_settle (s : State) : Kept s (settle s) := (ran_settle s).kept

/-- R197: an event that keeps the parts keeps the invariant. -/
theorem inv_whenUp {f : State → State} {s : State} (i : Inv s) (h : Kept s (f s)) : Inv (whenUp f s) := by
  unfold whenUp
  split
  · exact (h.trans (kept_settle _)).inv i (settle_between _)
  · exact i

theorem kept_respond (r : Result) (data : List Byte) (s : State) : Kept s (respond r data s) :=
  Kept.of_same rfl rfl rfl rfl rfl rfl

theorem kept_checkRequest (gate : Gate) (party : Byte) (form : Bool) {rule : State → Reply} {s : State}
    (h : Kept s (rule s).1) : Kept s (checkRequest gate party form rule s).1 := by
  unfold checkRequest
  repeat' split
  all_goals first
    | exact Kept.refl s
    | exact h

/-- R178: a request whose rule keeps the parts keeps the invariant. -/
theorem inv_takeRequest (gate : Gate) (party : Byte) (form : Bool) {rule : State → Reply} {s : State} (i : Inv s)
    (h : Kept s (rule s).1) : Inv (takeRequest gate party form rule s) := by
  unfold takeRequest
  split
  · have hc := kept_checkRequest gate party form h
    dsimp only
    generalize checkRequest gate party form rule s = x at hc ⊢
    have hb := settle_between x.1
    have hk := hc.trans (kept_settle x.1)
    generalize settle x.1 = u at hb hk ⊢
    exact (hk.trans (kept_respond x.2.1 x.2.2 u)).inv i hb
  · exact i

/-! ## Resets -/

/-- An interrupted step keeps the array canonical, with its bytes in the array. -/
theorem interrupt_sound {m : Memory} (wf : m.wf = true) (inside : m.inArray = true) (d : Nat) {a n : Nat} {bs : List Byte}
    (hl : bs.length ≤ n) (hn : a + n ≤ arraySize) :
    (m.interrupt d a bs).wf = true ∧ (m.interrupt d a bs).inArray = true :=
  ⟨wf_interrupt wf d a bs, inArray_interrupt inside d (by omega)⟩

/-- R154: an abandoned operation leaves the array canonical, with its bytes in the array. -/
theorem abandonOp_sound {s : State} (a : ArraySound s) (i : StepInRange s) :
    (abandonOp s).mem.wf = true ∧ (abandonOp s).mem.inArray = true := by
  unfold abandonOp
  split
  · exact a
  · rename_i op ho
    have hi := i op ho
    split
    · rename_i u hu
      simp only [Operation.inRange, hu, decide_eq_true_eq] at hi
      simp only [NvArray.interruptStep]
      exact interrupt_sound a.1 a.2 _ (Nat.le_of_eq List.length_replicate) (unit_inArray op.place hi)
    · rename_i r hr
      simp only [Operation.inRange, hr, decide_eq_true_eq] at hi
      simp only [NvArray.interruptStep]
      exact interrupt_sound a.1 a.2 _ (slice_length op.image (16 * r) 16) (row_inArray op.place hi)

/-- R49, R65: after a reset no hold stands. -/
theorem holdsSound_afterReset (setup : Setup) (nv : NvArray) (pins : Pins) (selHigh : Bool) (sys : Part)
    (pending : List Instr) : HoldsSound (State.afterReset setup nv pins selHigh sys pending) := by
  have e : ∀ h : HoldSlot, (State.afterReset setup nv pins selHigh sys pending).hold h = none := fun h => by
    simp [State.afterReset, State.hold]
  refine ⟨fun h => by simp [State.afterReset], fun h x hx => ?_, fun h _ x _ _ _ hx => ?_, fun h x hx => ?_⟩
  all_goals
    rw [e] at hx
    cases hx

/-- R88, R116: after a reset no order stands. -/
theorem ordersSound_afterReset (setup : Setup) (nv : NvArray) (pins : Pins) (selHigh : Bool) (sys : Part)
    (pending : List Instr) : OrdersSound (State.afterReset setup nv pins selHigh sys pending) := by
  have e : ∀ k : OrderSlot, (State.afterReset setup nv pins selHigh sys pending).order k = none := fun k => by
    simp [State.afterReset, State.order]
  refine ⟨fun k => by simp [State.afterReset], fun k o ho => ?_⟩
  rw [e] at ho
  cases ho

/-- R198: what a reset leaves keeps the parts of the invariant, with the array of an abandoned operation. -/
theorem kept_afterReset (setup : Setup) (s : State) (pins : Pins) (selHigh : Bool) (sys : Part) (pending : List Instr)
    (i : StepInRange s) (agree : ∀ c : Chan, MembersAgree s → setup.channels[c].assembly = memberOf setup.asms c) :
    Kept s (State.afterReset setup (abandonOp s) pins selHigh sys pending) where
  array a := abandonOp_sound a i
  steps _ _ := fun _ ho => nomatch ho
  staging _ := by rfl
  holds _ := holdsSound_afterReset ..
  orders _ := ordersSound_afterReset ..
  members h := fun c => agree c h

theorem kept_dirsIn (s : State) : Kept s (dirsIn s) := Kept.forAll fun c _ t => kept_setChan c _ t

theorem kept_startUp1 (s : State) : Kept s (startUp1 s) := by
  unfold startUp1
  split
  · rename_i x hx
    refine Kept.trans ?_ (kept_dirsIn _)
    exact (Kept.of_setup (areaSetup_agree hx)).trans (Kept.of_same rfl rfl rfl rfl rfl rfl)
  · refine Kept.trans ?_ (ran_raise _ _).kept
    refine Kept.trans ?_ (kept_dirsIn _)
    exact (Kept.of_setup default_agree).trans (Kept.of_same rfl rfl rfl rfl rfl rfl)

theorem kept_startUp2 (s : State) : Kept s (startUp2 s) := by
  have h : Kept s (scanAll s) := by
    unfold scanAll
    exact Kept.forAll fun p _ t => kept_setDir p _ t
  unfold startUp2
  dsimp only
  generalize scanAll s = t at h ⊢
  exact h.trans (Kept.of_same rfl rfl rfl rfl rfl rfl)

/-- R197: the steps before the inputs. -/
theorem kept_earlySteps (s : State) : Kept s (earlySteps s) := by
  unfold earlySteps
  split
  · exact (kept_startUp1 s).trans (kept_startUp2 _)
  · exact kept_startUp2 s
  all_goals exact Kept.refl s

theorem kept_startUpChannel (c : Chan) (s : State) : Kept s (startUpChannel c s) := by
  unfold startUpChannel
  dsimp only
  split
  · exact (kept_setChan c _ s).trans (ran_raise _ _).kept
  · exact kept_setChan c _ s

theorem kept_startUp3 (pins : Pins) (s : State) : Kept s (startUp3 pins s) := by
  unfold startUp3
  dsimp only
  have h0 : Kept s { s with pins := pins, port := { s.port with rlsHigh := pins.rls, rlsWait := none } } :=
    Kept.of_same rfl rfl rfl rfl rfl rfl
  refine h0.trans ?_
  generalize State.mk .. = t
  have h1 : Kept t (forAll allChans startUpChannel (dirsIn t)) :=
    (kept_dirsIn t).trans (Kept.forAll fun c _ u => kept_startUpChannel c u)
  generalize forAll allChans startUpChannel (dirsIn t) = u at h1 ⊢
  have h2 : Kept u (forAll allAsms startUpAsm u) := Kept.forAll fun a _ v => (handed_setAsm a _ v).ran.kept
  generalize forAll allAsms startUpAsm u = v at h2 ⊢
  exact (h1.trans h2).trans (Kept.of_same rfl rfl rfl rfl rfl rfl)

/-- R197: READY. -/
theorem kept_becomeReady (pins : Pins) (s : State) : Kept s (becomeReady pins s) := by
  unfold becomeReady
  dsimp only
  have h := ((kept_earlySteps s).trans (kept_startUp3 pins _)).trans (kept_evalAll _)
  generalize evalAll (startUp3 pins (earlySteps s)) = t at h ⊢
  exact h.trans (Kept.of_same rfl rfl rfl rfl rfl rfl)

/-- R197: POWER_ON. -/
theorem kept_powerUp {s : State} (i : StepInRange s) : Kept s (powerUp s) := by
  unfold powerUp
  dsimp only
  have h := kept_afterReset Setup.default s s.pins s.port.selHigh
    { supply := true, rstLow := s.sys.rstLow, status := .loading, nextStatus := .unconfigured, startUp := .step1 } s.pending i
    fun c _ => default_agree c
  split
  · exact h
  · exact h.trans (kept_earlySteps _)

/-- R198: POWER_LOSS. -/
theorem kept_powerGone {s : State} (i : StepInRange s) : Kept s (powerGone s) := kept_afterReset _ s _ _ _ _ i fun c _ => default_agree c

/-- R198: RST_ASSERT. -/
theorem kept_resetLow {s : State} (i : StepInRange s) : Kept s (resetLow s) := by
  unfold resetLow
  split
  · exact (kept_afterReset _ s _ _ _ _ i fun c h => h c).trans (kept_dirsIn _)
  · exact Kept.of_same rfl rfl rfl rfl rfl rfl

/-- R198: RST_RELEASE. -/
theorem kept_resetHigh (s : State) : Kept s (resetHigh s) := by
  unfold resetHigh
  dsimp only
  split
  · have h : Kept s { s with sys := { s.sys with rstLow := false } } := Kept.of_same rfl rfl rfl rfl rfl rfl
    split
    · exact h.trans (kept_earlySteps _)
    · exact h
  · exact Kept.refl s

/-! ## Time -/

theorem kept_tickHold (h : HoldSlot) (s : State) : Kept s (tickHold h s) := by
  unfold tickHold
  split
  · rename_i x hx
    exact (evaluated_setHold_again (y := { x with expiry := runDown x.expiry }) hx rfl rfl rfl rfl rfl rfl).ran.kept
  · exact Kept.refl s

theorem tickStore_op {x : Store} {o : Operation} (h : (tickStore x).op = some o) :
    ∃ p, x.op = some p ∧ o.step = p.step ∧ o.place = p.place := by
  unfold tickStore at h
  split at h
  all_goals first
    | exact ⟨o, h, rfl, rfl⟩
    | rename_i p _ hp
      cases h
      exact ⟨p, hp, rfl, rfl⟩

theorem tickStore_staging (x : Store) : (tickStore x).staging = x.staging := by
  unfold tickStore
  repeat' split
  all_goals rfl

/-- A quantum of time. -/
theorem kept_tick (s : State) : Kept s (tick s) := by
  unfold tick
  dsimp only
  have h1 : Kept s (forAll allChans (fun c s => s.setChan c (tickChan (s.cfg c) (s.pin c) (s.chan c))) s) :=
    Kept.forAll fun c _ t => kept_setChan c _ t
  generalize forAll allChans (fun c s => s.setChan c (tickChan (s.cfg c) (s.pin c) (s.chan c))) s = t at h1 ⊢
  have h2 : Kept t (forAll allOrders tickOrder t) :=
    Kept.forAll fun k _ u => (ran_modOrder u k (fun o => { o with armed := runDown o.armed, linger := runDown o.linger })
      fun _ => rfl).kept
  generalize forAll allOrders tickOrder t = u at h2 ⊢
  have h3 : Kept u (forAll allHolds tickHold u) := Kept.forAll fun h _ v => kept_tickHold h v
  generalize forAll allHolds tickHold u = v at h3 ⊢
  refine ((h1.trans h2).trans h3).trans ⟨id, fun _ i o ho => ?_, fun x => ?_, HoldsSound.of_eq rfl, OrdersSound.of_eq rfl,
    MembersAgree.of_eq rfl⟩
  · obtain ⟨p, hp, es, ep⟩ := tickStore_op ho
    have := i p hp
    simp only [Operation.inRange, es, ep] at this ⊢
    exact this
  · simpa only [StagingSize, tickStore_staging] using x

end Sys2Proof.Laws
end

