-- ==== Sys2Proof/Laws/Commands.lean ====
section
/-! SUPPORT. The events and the frames keep the parts of the invariant (`Kept`). -/
namespace Sys2Proof.Laws
open Sys2Proof.Machine

/-! ## Events of a channel -/

theorem kept_setPin (c : Chan) (f : ChanPins → ChanPins) (s : State) : Kept s (setPin c f s) :=
  Kept.of_same rfl rfl rfl rfl rfl rfl

theorem kept_eventIn (c : Chan) (s : State) : Kept s (eventIn c s) := by
  unfold eventIn
  split
  · exact Kept.refl s
  · exact ((kept_setChan c _ s).trans (kept_setPin c _ _)).trans (moved_takeIn c _).ran.kept

theorem kept_eventOut (c : Chan) (s : State) : Kept s (eventOut c s) := by
  unfold eventOut
  split
  · exact Kept.refl s
  · exact ((kept_setChan c _ s).trans (kept_setPin c _ _)).trans (moved_takeOut c _).ran.kept

theorem kept_eventEndGone (c : Chan) (e : End) (s : State) : Kept s (eventEndGone c e s) := by
  cases e
  all_goals
    simp only [eventEndGone]
    split
    · exact ((kept_setChan c _ s).trans (kept_setPin c _ _)).trans (moved_takeEndGone c _ _).ran.kept
    · exact Kept.refl s

theorem kept_eventAux (c : Chan) (active : Bool) (s : State) : Kept s (eventAux c active s) := by
  unfold eventAux
  split
  · exact Kept.refl s
  · exact ((kept_setChan c _ s).trans (kept_setPin c _ _)).trans (ran_takeAux c active _).kept

theorem kept_eventTrp (c : Chan) (s : State) : Kept s (eventTrp c s) := by
  unfold eventTrp
  split
  · exact Kept.refl s
  · exact (kept_setPin c _ s).trans (moved_takeTrp c _).ran.kept

theorem kept_eventTrpGone (c : Chan) (s : State) : Kept s (eventTrpGone c s) := by
  unfold eventTrpGone
  split
  · exact (kept_setPin c _ s).trans (moved_takeTrpGone c _).ran.kept
  · exact Kept.refl s

theorem ran_eventCount (c : Chan) (s : State) : Ran s (eventCount c s) :=
  (moved_takeCount c s).ran.trans (ran_reachLimit c _).when'

theorem ran_eventRamp (c : Chan) (s : State) : Ran s (eventRamp c s) := by
  unfold eventRamp
  split
  · exact (moved_takeRamp c s).ran
  · exact Ran.refl s

theorem ran_eventStall (c : Chan) (s : State) : Ran s (eventStall c s) := by
  unfold eventStall
  split
  · exact (moved_takeStall c s).ran
  · exact Ran.refl s

theorem ran_unsend (m : Msg) (s : State) : Ran s (s.unsend m) := Ran.of_same rfl rfl rfl rfl rfl rfl rfl rfl rfl rfl rfl

/-! ## Events of the chassis lines -/

theorem kept_setPins (s : State) (p : Pins) : Kept s { s with pins := p } := Kept.of_same rfl rfl rfl rfl rfl rfl

theorem kept_eventRoad (line : RoadLine) (active : Bool) (s : State) : Kept s (eventRoad line active s) := by
  cases line
  all_goals
    simp only [eventRoad]
    split
    · exact Kept.refl s
    · exact (kept_setPins s _).trans (ran_takeRoad _ active _).kept

theorem kept_eventLowv (active : Bool) (s : State) : Kept s (eventLowv active s) := by
  unfold eventLowv
  split
  · exact Kept.refl s
  · exact (kept_setPins s _).trans (ran_takeLowv active _).kept

theorem kept_eventEstp (active : Bool) (s : State) : Kept s (eventEstp active s) := by
  unfold eventEstp
  split
  · exact Kept.refl s
  · exact (kept_setPins s _).trans (ran_takeEstp active _).kept

/-! ## Frames -/

/-- What only the port changes keeps the invariant. -/
theorem inv_port {s : State} (i : Inv s) (x : Port) : Inv { s with port := x } :=
  have h : Kept s { s with port := x } := Kept.of_same rfl rfl rfl rfl rfl rfl
  h.inv i i.between

theorem raise_between (f : Flag) (s : State) : (raise f s).reconsider = s.reconsider := rfl

theorem inv_raise {s : State} (i : Inv s) (f : Flag) : Inv (raise f s) := (ran_raise f s).inv i i.between

theorem inv_answerBadCheck {s : State} (i : Inv s) : Inv (answerBadCheck s) := inv_port (inv_raise i .portError) _

theorem inv_answerUnknown {s : State} (i : Inv s) : Inv (answerUnknown s) := inv_port i _

theorem inv_overlong {s : State} (i : Inv s) : Inv (overlong s) := inv_raise (inv_port i _) .portError

theorem inv_selRises {s : State} (i : Inv s) : Inv (selRises s) := by
  unfold selRises
  split
  all_goals exact inv_port i _

theorem inv_selDrops {s : State} (i : Inv s) : Inv (selDrops s) := by
  unfold selDrops
  split
  all_goals exact inv_port i _

theorem inv_sendAnswer {s : State} (i : Inv s) : Inv (sendAnswer s) := by
  unfold sendAnswer
  split
  all_goals exact inv_port i _

/-! ## The wish to reconsider -/

theorem forAll_between {α : Type} {f : α → State → State} {xs : List α}
    (h : ∀ x s, (f x s).reconsider = s.reconsider) (s : State) : (forAll xs f s).reconsider = s.reconsider :=
  forAll_keeps (P := fun t => t.reconsider = s.reconsider) rfl fun x _ t ht => (h x t).trans ht

theorem dirsIn_between (s : State) : (dirsIn s).reconsider = s.reconsider := by
  unfold dirsIn
  refine forAll_between (fun c t => ?_) s
  rfl

theorem startUp1_between (s : State) : (startUp1 s).reconsider = s.reconsider := by
  unfold startUp1
  split
  · rw [dirsIn_between]
  · rw [raise_between, dirsIn_between]

theorem startUp2_between (s : State) : (startUp2 s).reconsider = s.reconsider := by
  have h : (scanAll s).reconsider = s.reconsider := by
    unfold scanAll
    refine forAll_between (fun p t => ?_) s
    rfl
  unfold startUp2
  dsimp only
  exact h

theorem earlySteps_between (s : State) : (earlySteps s).reconsider = s.reconsider := by
  unfold earlySteps
  split
  · rw [startUp2_between, startUp1_between]
  · rw [startUp2_between]
  all_goals rfl

/-- R197: power-on ends with nothing to reconsider. -/
theorem powerUp_between (s : State) : (powerUp s).reconsider = false := by
  unfold powerUp
  dsimp only
  split
  · rfl
  · rw [earlySteps_between]
    rfl

theorem resetLow_between {s : State} (h : s.reconsider = false) : (resetLow s).reconsider = false := by
  unfold resetLow
  split
  · rw [dirsIn_between]
    rfl
  · exact h

theorem resetHigh_between {s : State} (h : s.reconsider = false) : (resetHigh s).reconsider = false := by
  unfold resetHigh
  dsimp only
  split
  · split
    · rw [earlySteps_between]
      exact h
    · exact h
  · exact h

end Sys2Proof.Laws
end

