-- ==== Sys2Proof/WellFormed.lean ====
section
/-! DEFINITION. Which commands can occur: a frame carries at most 32 argument bytes (R176), a period holds its high time
(R135), and a flaw of a store step is one byte of the array (R153). -/
namespace Sys2Proof

/-- R176: the argument length L of a frame is 0 to 32. -/
def argsFit (args : List Byte) : Bool := decide (args.length ≤ 32)

/-- R135: the high time lies within a period that has a length. -/
def pulseFits (high period : Nat) : Bool := decide (0 < period ∧ high ≤ period)

/-- R153: the array has 2560 bytes. -/
def cellsFit (flaws : List Host.Cell) : Bool := flaws.all fun x => decide (x.1 < 2560)

/-- The commands that the outside world can send. -/
def Instr.wellFormed : Instr → Bool
  | .readIdent _ args | .readNotices _ args | .setNoticeMask _ args | .readRange _ args | .readOrder _ args
  | .setChannel _ args | .setAssembly _ args | .setLeveller _ args | .setWind _ args | .setLines _ args
  | .setSweep _ args | .commitSetup _ args | .placeHold _ args | .liftHold _ args | .renewHold _ args
  | .clearHold _ args | .orderTravel _ args | .orderJog _ args | .orderLevel _ args | .orderStow _ args
  | .orderRecall _ args | .amend _ args | .cancel _ args | .release _ args | .retire _ args | .stopAll _ args
  | .stageWrite _ args | .saveProfile _ args | .readProfile _ args | .eraseProfile _ args | .setProtect _ args =>
    argsFit args
  | .tiltReading _ high period => pulseFits high period
  | .eraseStepEnd flaws | .rowStepEnd flaws => cellsFit flaws
  | .badCheck | .unknownRequest | .frameOverlong | .frameAbandoned | .inBecomesActive _ | .outBecomesActive _
  | .endBecomesInactive _ _ | .auxChange _ _ | .trpBecomesActive _ | .trpBecomesInactive _ | .count _ | .rampInterval _
  | .stallTimerExpiry _ | .coastWindowExpiry _ | .pause _ | .resume _ | .cut _ | .ease _ | .channelReport _
  | .skewReport _ | .stopNotice _ | .ignOrPbrkChange _ _ | .lowvChange _ | .lowvOnDelayExpiry | .lowvOffDelayExpiry
  | .estpChange _ | .wndPulse | .windowExpiry | .calmTimerExpiry | .axisTimerExpiry _ | .solveTimerExpiry
  | .settleTimerExpiry | .armedTimerExpiry _ | .lingerExpiry _ | .holdExpiry _ | .rlsFallingEdge | .guardMet
  | .haltComplete | .serveRead | .powerOn | .rstAssert | .rstRelease | .ready _ | .selFalls | .byteComplete _
  | .frameEnd | .powerLoss => true

end Sys2Proof
end

