-- ==== Sys2Proof/Tests/Slice0.lean ====
section
/-! SUPPORT. The model's own tests: the smoke tests of WellFormed, a few facts on fixed values, and for each statement with
hypotheses a state and operands that meet them all (`test_meets_…`). -/
namespace Sys2Proof.Tests
open Sys2Proof.Machine Sys2Proof.Laws

-- One proof at a time: the kernel's evaluations of these tests run side by side would need too much memory.
set_option Elab.async false

/-! ## Small states -/

/-- An assembly of some channels. -/
def asmOn (k : AsmKind) (cs : List Chan) : AsmSetup := { AsmSetup.default with kind := k, channels := cs }

/-- A stance of four jacks, a slide of one channel, an awning of one, a twin slide. -/
def coachSetup : Setup :=
  withMembers { Setup.default with
    asms := #v[asmOn .stance [0, 1, 2, 3], asmOn .slide [4], asmOn .awning [5], asmOn .slide [6, 7], AsmSetup.default,
      AsmSetup.default, AsmSetup.default, AsmSetup.default] }

/-- The part in a setup status. -/
def partIn (st : Status) : Part :=
  { supply := true, rstLow := false, status := st, nextStatus := .configured, startUp := .done }

/-- A CONFIGURED part at rest. -/
def coach : State := State.afterReset coachSetup NvArray.blank Pins.quiet true (partIn .configured) []

/-- The part asleep: no supply. -/
def asleep : State := { coach with sys := { partIn .loading with supply := false } }

/-- A channel at rest at a known position. -/
def known (p : Nat) : Channel := { Channel.reset with position := p, positionKnown := true }

/-- A channel on its way OUT from a known position. -/
def outward (p : Nat) : Channel :=
  { known p with state := .running, direction := .dirOut, profile := .ramped, target := .endOut, duty := 40,
                 stallTimer := some 500000, rampTimer := some 20000 }

/-- The coach with the channel of its slide in a given record. -/
def slideAt (ch : Channel) : State := coach.setChan 4 ch

/-- A TRAVEL of the slide, of party 1. -/
def travelOf (st : OrderState) (es : EntryState) : Order :=
  { newOrder 1#8 .travel 0x02#8 .now false [4] with
    state := st, targets := [{ asm := 1, target := .out }],
    entries := [{ newEntry 4 with state := es, direction := some .dirOut, goal := some .endOut }] }

/-- The coach with an order in slot 0 that claims the slide's channel, which has a given record. -/
def ordered (o : Order) (ch : Channel) : State := ((slideAt ch).setOrder 0 o).setClaim 4 (some 0)

/-- The slide on its way OUT under its order. -/
def travelling : State := ordered (travelOf .running .moving) (outward 200)

/-- A hold of party 2 over the slide. -/
def guestHold (expiry : Option Nat) : Hold :=
  { owner := .party 2, cause := .party, subject := none, scope := 0x02#8, blocks := .both, style := .ease,
    latched := false, state := .active, expiry := expiry, detail := none }

/-- The coach with the hold of party 2 in slot 20. -/
def held (expiry : Option Nat) : State := coach.setHold 20 (guestHold expiry)

/-- The coach with its first party holds taken. -/
def crowded (n : Nat) : State := forAll (partyHolds.take n) (fun h s => s.setHold h (guestHold none)) coach

/-- The coach with ESTP active or not, as evaluated. -/
def estopped (active : Bool) (s : State) : State :=
  evalEstop { s with mon := { s.mon with estp := { active := active, wait := none } } }

/-- The coach in another port state. -/
def portIn (a : Assembler) (buffer answer : List Byte) : State :=
  { coach with port := { coach.port with assembler := a, buffer := buffer, answer := answer, selHigh := false } }

/-- The coach with a store operation under way. -/
def storing (st : StoreState) (kind : OpKind) (place : OpPlace) (step : OpStep) : State :=
  { coach with store := { coach.store with
      state := st, op := some { kind := kind, place := place, step := step, remaining := 100,
                                image := List.replicate (place.units * 64) 0x11#8, guard := 0, haltedFrom := .erasing } } }

/-- The coach with a read of an order waiting. -/
def reading (s : State) : State := { s with store := { s.store with queue := [{ order := 0#8, slot := 3 }] } }

/-- The report of the slide's channel that its order gets, with the place it carries. -/
def reportOf (kind : ReportKind) (position : Option Nat) (atEnd : Option End) : Report :=
  { chan := 4, kind := kind, order := 0#8, position := position, atEnd := atEnd }

/-- The coach with messages in flight. -/
def sent (ms : List Msg) (s : State) : State := { s with inFlight := ms }

/-- What a command leaves, where it answers a next state. -/
def after (i : Instr) (s : State) : Option State :=
  match exec i s with
  | .next t => some t
  | .fault _ => none
  | .refused _ => none

/-- The answer that stands after a command. -/
def answerOf (i : Instr) (s : State) : Option (List Byte) := (after i s).map (·.port.answer)

/-! ## The invariant at these states -/

theorem inv_coach : Inv coach :=
  inv_of ⟨rfl, rfl⟩ (fun _ h => nomatch h) rfl (holdsSound_afterReset ..) (ordersSound_afterReset ..)
    (withMembers_agree _) rfl

theorem inv_estopped {s : State} {b : Bool} (i : Inv s) (h : (estopped b s).reconsider = false) : Inv (estopped b s) :=
  ((ran_setMon s _).trans (evaluated_evalEstop _).ran).inv i h

theorem inv_slideAt (ch : Channel) : Inv (slideAt ch) := (ran_setChan 4 ch coach).inv inv_coach rfl

theorem inv_ordered {o : Order} (ch : Channel) (h : o.owner ≠ .monitor) : Inv (ordered o ch) :=
  let i := inv_slideAt ch
  (ran_setClaim 4 (some 0) _).inv
    (inv_of i.array i.step i.staging (HoldsSound.of_eq (s := slideAt ch) rfl (Inv.holdsSound i))
      (OrdersSound.setOrder (Inv.ordersSound i) ⟨fun e => absurd e h, fun e => absurd e (by decide)⟩) i.members rfl) rfl

theorem inv_mon (m : Monitor) : Inv { coach with mon := m } := (ran_setMon coach m).inv inv_coach rfl

/-! ## Well-formedness -/

theorem test_wellFormed_frame : Instr.wellFormed (.stageWrite 0#8 (List.replicate 32 0#8)) = true := by decide

theorem test_illFormed_frame : Instr.wellFormed (.stageWrite 0#8 (List.replicate 33 0#8)) = false := by decide

theorem test_wellFormed_pulse : Instr.wellFormed (.tiltReading .pitch 500 1000) = true := by decide

theorem test_illFormed_pulse : Instr.wellFormed (.tiltReading .pitch 1001 1000) = false := by decide

theorem test_illFormed_period : Instr.wellFormed (.tiltReading .roll 0 0) = false := by decide

theorem test_wellFormed_flaw : Instr.wellFormed (.rowStepEnd [(2559, 0#8)]) = true := by decide

theorem test_illFormed_flaw : Instr.wellFormed (.eraseStepEnd [(2560, 0#8)]) = false := by decide

/-! ## Facts on fixed values -/

/-- R177's example: the CRC-8 of READ_NOTICES from party 2. -/
theorem test_crc_of_a_frame : crc8 [0x02#8, 0x02#8, 0x00#8] = 0xD7#8 := by decide +kernel

/-- R177: the answer BAD_CHECK. -/
theorem test_crc_of_badCheck : answerBytes .badCheck [] = [Result.badCheck.code, 0#8, 0#8, 0x40#8] := by decide +kernel

/-- R135: half a period reads level, and nine tenths reads 15 degrees. -/
theorem test_tilt : tiltOf 500 1000 = 0 ∧ tiltOf 900 1000 = 1500 ∧ tiltOf 100 1000 = -1500 := by decide

/-- R73: 30 pulses in a window of one second under the factor 16 are 30 km/h. -/
theorem test_wind_speed : windSpeed { Setup.default.wind with window := .one, factor := 16 } 30 = 30 := by decide

/-- No table word spells a command. -/
theorem test_no_words (n w : Nat) : decodeTableWord n w = none := rfl

theorem test_withFetchWord (s : State) (n w : Nat) : s.withFetchWord n w = s := rfl

/-! ## One step on a small state -/

theorem test_readIdent : answerOf (.readIdent 0#8 []) coach =
    some (answerBytes .ok [0x64#8, 1#8, 1#8, 12#8, 8#8, 32#8, 20#8, 8#8, 2#8, 32#8, 64#8]) := by decide +kernel

theorem test_badParty : answerOf (.readIdent 8#8 []) coach = some (answerBytes .badArgument []) := by decide +kernel

theorem test_placeHold : (after (.placeHold 1#8 [2#8, 3#8, 0#8, 0#8, 0#8]) travelling).map
    (fun t => (t.port.answer, t.inFlight)) =
    some (answerBytes .ok [20#8],
      [.cut 4, .stop { order := 0#8, hold := 20#8, owner := .party 1, style := .cut, commanded := [4] }]) := by
  decide +kernel

theorem test_cut : (after (.cut 4) travelling).map (fun t => ((t.chan 4).state, (t.chan 4).coastTimer, t.inFlight)) =
    some (.idle, some 200000, [.report (reportOf .halt (some 200) none)]) := by decide

theorem test_arrival : (after (.outBecomesActive 4) travelling).map
    (fun t => ((t.chan 4).state, (t.chan 4).position, t.inFlight)) =
    some (.idle, 1000, [.report (reportOf .arrival (some 1000) (some .outEnd))]) := by decide

theorem test_count : (after (.count 4) travelling).map (fun t => (t.chan 4).position) = some 201 := by decide

theorem test_jog : (after (.orderJog 1#8 [4#8, 5#8, 0#8, 0#8, 0#8]) (slideAt (known 100))).map
    (fun t => ((t.chan 4).state, (t.chan 4).duty, (t.chan 4).target)) = some (.starting, 20, .distance 5) := by
  decide +kernel

theorem test_setProtect : (after (.setProtect 0#8 [32#8]) coach).map (·.setup.protect) = some 32 := by decide +kernel

theorem test_erase_begins : (after (.eraseProfile 0#8 [3#8]) coach).map (fun t => (t.store.state, t.nv.marks[3])) =
    some (.erasing, true) := by decide

theorem test_window : (after .windowExpiry { coach with mon := { coach.mon with counter := 45, window := some 0 } }).map
    (fun t => (t.mon.lastSpeed, t.mon.run, t.mon.counter)) = some (45, 1, 0) := by decide

/-- The spec's frame 1: READ_NOTICES from party 2, its last answer byte, and the fill. -/
theorem test_frame_of_the_manual :
    (clockBytes [2#8, 2#8, 0#8, 0xD7#8, 0#8, 0#8, 0#8, 0#8, 0#8, 0#8, 0#8]
      { portIn .receiving [] [] with port := { (portIn .receiving [] []).port with word := 0x0043#16 } }).map (·.1) =
    some [some 0xFF#8, some 0xFF#8, some 0xFF#8, some 0xFF#8, some 0#8, some 2#8, some 0#8, some 0x43#8, some 0#8,
      some 0x71#8, some 0#8] := by decide +kernel

/-! ## The hypotheses of the statements: the machine and the port -/

/-- The states that most statements start from. -/
theorem test_meets_states :
    coach.quiet = true ∧ coach.taking = true ∧ coach.ordering = true ∧ coach.awake = true ∧ coach.reconsider = false ∧
    travelling.quiet = true ∧ travelling.ordering = true := by decide

theorem test_meets_EmptyQueueLetsThePartRun :
    (asleep.pending = [] ∧ asleep.awake = false) ∧
    (State.reset.pending = [] ∧ State.reset.awake = true ∧ State.reset.sys.status = .loading) ∧
    (travelling.pending = [] ∧ (sent [.cut 4] travelling).selfEvent = some (.cut 4)) ∧
    (coach.pending = [] ∧ coach.up = true ∧ coach.selfEvent = none) := by decide

theorem test_meets_StepKeepsInv :
    Inv coach ∧ ∃ t, step { coach with pending := [.inBecomesActive 4] } = .next t := ⟨inv_coach, _, rfl⟩

/-- The slide on its way OUT, a hold just placed over it, and the cut that the hold sends. -/
def stopping : State := (rulePlaceHold 1#8 [2#8, 3#8, 0#8, 0#8, 0#8] travelling).1

theorem inv_stopping : Inv stopping :=
  (ran_rulePlaceHold _ _ _).inv (inv_ordered (o := travelOf .running .moving) _ (by decide)) (by decide)

theorem live_stopping : LiveClaims stopping := by
  have h : ∀ (c : Chan) (k : OrderSlot), stopping.claims[c] = some k ∨ stopping.succs[c] = some k →
    stopping.liveAt k = true := by decide
  exact h

theorem test_meets_StepKeepsLiveClaims :
    Inv stopping ∧ LiveClaims stopping ∧ ∃ t, step { stopping with pending := [.inBecomesActive 5] } = .next t :=
  ⟨inv_stopping, live_stopping, _, rfl⟩

theorem test_meets_StepKeepsTheLawOfHolds :
    Inv stopping ∧ LiveClaims stopping ∧ LawOfHolds stopping ∧
    (stopping.claims[(4 : Chan)] = some 0 ∧ (stopping.chan 4).state.pursuing = true ∧ stopping.covered 1 .dirOut = true) ∧
    ∃ t, step { stopping with pending := [.cut 4] } = .next t := by
  refine ⟨inv_stopping, live_stopping, ⟨?_, ?_, ?_⟩, by decide, _, rfl⟩
  · intro c k o e a h x hc
    obtain rfl := (by decide : ∀ (c : Chan) (k : OrderSlot), stopping.claims[c] = some k → c = 4) c k hc
    intros
    exact ⟨fun _ => .inl (by decide), fun _ _ => by decide⟩
  · intro c k h
    exact absurd h ((by decide : ∀ (c : Chan) (k : OrderSlot), stopping.succs[c] ≠ some k) c k)
  · exact fun h => absurd h (by decide)

/-- The coach with its awning home. -/
def awningHome : State := (coach.setChan 5 (known 0)).setAsm 2 { AsmLive.reset with summary := .atIn, settled := true }

theorem test_meets_StepKeepsAssembliesFollowing :
    Inv awningHome ∧ AssembliesFollow awningHome ∧ ∃ t, step { awningHome with pending := [.count 5] } = .next t := by
  refine ⟨Ran.inv (Ran.of_same (s := coach) rfl rfl rfl rfl rfl rfl rfl rfl rfl rfl rfl) inv_coach rfl,
    ⟨?_, ?_, ?_, ?_, ?_⟩, _, rfl⟩
  · intro a
    refine ⟨?_, ?_, ?_, ?_, ?_⟩ <;> revert a <;> decide
  · have h : ∀ (a b : Asm) (c : Chan), c ∈ coach.setup.asms[a].channels → c ∈ coach.setup.asms[b].channels → a = b := by
      decide +kernel
    exact h
  · decide
  · exact fun h => absurd h (by decide)
  · decide

theorem test_meets_AMonitorSlotIsFree : Inv coach := inv_coach

theorem validSetup_coach : ValidSetup coachSetup where
  channels := by decide
  kPitch := by decide
  kRoll := by decide
  members := by decide
  asms := by decide
  table := by decide
  leveller := by decide
  wind := by decide
  protect := by decide

/-- An array that holds the setup image of the coach, with every mark CLOSED. -/
theorem test_meets_SetupImageReadsBack :
    ValidSetup coachSetup ∧ ∃ nv : NvArray, (∀ u : Fin 40, 32 ≤ u.val → nv.marks[u] = false) ∧
      nv.mem.readList 2048 512 = setupImage coachSetup := by
  refine ⟨validSetup_coach, { NvArray.blank with mem := Memory.program [] 0 2048 (setupImage coachSetup) },
    by decide, ?_⟩
  have hl : (setupImage coachSetup).length = 512 := by decide +kernel
  refine List.ext_getElem? fun i => ?_
  by_cases hi : i < 512
  · rw [readList_get _ _ _ hi, read_program_inside (m := []) rfl 0 (fun _ _ => rfl) (by rw [hl]; exact hi)]
    exact (List.getElem?_eq_getElem (by rw [hl]; exact hi)).symm
  · rw [List.getElem?_eq_none (by rw [readList_length]; omega), List.getElem?_eq_none (by rw [hl]; omega)]

/-- The shortest frame and the longest, with a check byte that agrees and one that does not. -/
theorem test_meets_CheckByte :
    ∀ buf ∈ [[0x02#8, 0x02#8, 0x00#8], [0x40#8, 0#8, 32#8] ++ List.replicate 32 0x55#8],
      let s := portIn .receiving buf []
      s.awake = true ∧ s.port.assembler = .receiving ∧ 3 ≤ s.port.buffer.length ∧
      s.port.buffer.length = 3 + (at8 s.port.buffer 2).toNat ∧ crc8 s.port.buffer = crc8 buf ∧
      crc8 s.port.buffer ≠ crc8 buf + 1#8 := by decide +kernel

theorem test_meets_FrameTakesItsRequest :
    (∀ args ∈ [[], List.replicate 32 0x55#8],
      (portIn .receiving [] []).awake = true ∧ (portIn .receiving [] []).port.assembler = .receiving ∧
      (portIn .receiving [] []).port.buffer = [] ∧ args.length ≤ 32 ∧
      (portIn .receiving ([1#8, 0#8, byte args.length] ++ args) []).port.buffer =
        [1#8, 0#8, byte args.length] ++ args ∧
      ((1#8 : Byte).toNat, Instr.readIdent 0#8 args) ∈ requests 0#8 args) ∧
    ∀ i, ((0xFF#8 : Byte).toNat, i) ∉ requests 0#8 [] :=
  ⟨by decide, fun i => by simp [requests]⟩

theorem test_meets_ArgumentLength :
    let s := portIn .receiving [1#8, 0#8] []
    s.awake = true ∧ s.port.assembler = .receiving ∧ s.port.buffer = [1#8, 0#8] ∧ 32 < (33#8 : Byte).toNat ∧
    (32#8 : Byte).toNat ≤ 32 ∧ (0#8 : Byte).toNat ≤ 32 ∧
    (let u := portIn .receiving ([1#8, 0#8, 32#8] ++ List.replicate 31 0#8) [];
      u.port.buffer = [1#8, 0#8, 32#8] ++ List.replicate 31 0#8 ∧
      (List.replicate 31 (0#8 : Byte)).length < (32#8 : Byte).toNat) ∧
    (let u := portIn .receiving [1#8, 0#8, 0#8] [];
      u.port.buffer = [1#8, 0#8, 0#8] ++ [] ∧ ([] : List Byte).length = (0#8 : Byte).toNat) := by decide

theorem test_meets_AnswerGoesOut : coach.awake = true ∧ (List.replicate 4 (0#8 : Byte)).length = ([] : List Byte).length + 4 :=
  by decide

theorem test_meets_FrameEvents :
    (coach.awake = true ∧ coach.port.selHigh = true ∧ coach.port.assembler = .deselected) ∧
    (let s := portIn .discarding [] [];
      s.awake = true ∧ s.port.selHigh = false ∧ s.port.assembler = .discarding) ∧
    (portIn .trailing [] []).port.assembler = .trailing ∧
    (let s := portIn .answering [] [1#8, 2#8];
      s.port.assembler = .answering ∧ s.port.answer = 1#8 :: 2#8 :: []) ∧
    (let s := portIn .answering [] [2#8];
      s.port.assembler = .answering ∧ s.port.answer = [2#8]) := by decide

theorem test_meets_RequestChecks :
    (State.reset.awake = true ∧ State.reset.sys.status = .loading ∧ State.reset.reconsider = false ∧
      (0x3F, Instr.stopAll 0#8 []) ∈ requests 0#8 [] ∧ (0x3F : Nat) ≠ 0x01 ∧ (0x3F : Nat) ≠ 0x02) ∧
    (let s := { coach with sys := partIn .unconfigured };
      s.taking = true ∧ s.sys.status = .unconfigured ∧ (0x30, Instr.orderTravel 0#8 []) ∈ requests 0#8 [] ∧
      (0x3F, Instr.stopAll 0#8 []) ∈ requests 0#8 []) ∧
    (coach.ordering = true ∧ 8 ≤ (8#8 : Byte).toNat ∧ (0x01, Instr.readIdent 8#8 []) ∈ requests 8#8 [] ∧
      [0#8].length ≠ 0 ∧ (0x01, Instr.readIdent 0#8 [0#8]) ∈ requests 0#8 [0#8] ∧
      (List.replicate 7 (0#8 : Byte)).length ≠ 8 + (at8 (List.replicate 7 (0#8 : Byte)) 7).toNat ∧
      6 < (at8 (List.replicate 8 (7#8 : Byte)) 7).toNat ∧
      [1#8, 0#8].length ≠ 4 + 3 * (maskAsms (at8 [1#8, 0#8] 0)).length ∧
      [0#8].length < 2 ∧ 17 < (List.replicate 18 (0#8 : Byte)).length ∧
      2 ≤ (at8 [0#8, 2#8] 1).toNat ∧ ((at8 [0#8, 0#8, 0#8] 1).toNat = 0 ∧ [0#8, 0#8, 0#8].length ≠ 2) ∧
      ((at8 [0#8, 1#8] 1).toNat = 1 ∧ [0#8, 1#8].length ≠ 16)) := by decide

theorem test_meets_readings :
    (State.reset.awake = true ∧ State.reset.reconsider = false ∧ (7#8 : Byte).toNat < 8 ∧
      State.reset.sys.status = .loading ∧ coach.sys.status ≠ .loading) ∧
    (coach.taking = true ∧ 6 < (7#8 : Byte).toNat ∧
      ((0#8 : Byte).toNat, 12, 28) ∈ [(0, 12, 28), (1, 12, 31), (2, 8, 21), (3, 32, 12), (4, 8, 7), (5, 32, 16), (6, 1, 22)] ∧
      12 < (11#8 : Byte).toNat + ((1#8 : Byte).toNat + 1) ∧ (11#8 : Byte).toNat + ((0#8 : Byte).toNat + 1) ≤ 12 ∧
      (0#8 : Byte).toNat + ((11#8 : Byte).toNat + 1) ≤ 12 ∧ (coach.table 0#8).isSome = true) := by decide

theorem test_meets_ReadOrder :
    (travelling.taking = true ∧ (0 : OrderSlot).val = (0#8 : Byte).toNat % 8 ∧
      travelling.orders[(0 : OrderSlot)].gen = (0#8 : Byte).toNat / 8 ∧
      travelling.order 0 = some (travelOf .running .moving)) ∧
    (travelling.ordering = true ∧ travelling.order 1 = none ∧ (1 : OrderSlot).val = (1#8 : Byte).toNat % 8 ∧
      travelling.orders[(0 : OrderSlot)].gen ≠ (0xF8#8 : Byte).toNat / 8 ∧
      (0 : OrderSlot).val = (0xF8#8 : Byte).toNat % 8) := by decide

/-! ## The hypotheses of the statements: holds -/

/-- PLACE_HOLD with every party slot free, with the last one free, and with none. -/
theorem test_meets_PlaceHold :
    (travelling.taking = true ∧ (1#8 : Byte).toNat < 8 ∧ (2#8 : Byte) ≠ 0#8 ∧ blocksOf 3#8 = some .both ∧
      styleOf 0#8 = some .cut ∧ styleOf 1#8 = some .ease ∧ 20 ≤ (20 : HoldSlot).val ∧ travelling.hold 20 = none ∧
      (∀ j : HoldSlot, 20 ≤ j.val → j < 20 → travelling.hold j ≠ none) ∧ travelling.asmOf 4 = some 1 ∧
      (2#8 : Byte).getLsbD (1 : Asm).val = true ∧ Blocks.both.includes (travelling.chan 4).direction = true ∧
      (travelling.chan 4).state ≠ .idle ∧ (travelling.chan 4).state.pursuing = true) ∧
    ((crowded 11).taking = true ∧ (crowded 11).hold 31 = none ∧
      ∀ j : HoldSlot, 20 ≤ j.val → j < 31 → (crowded 11).hold j ≠ none) ∧
    ((crowded 12).taking = true ∧ (1 ≤ (3#8 : Byte).toNat ∧ (3#8 : Byte).toNat ≤ 3) ∧ (1#8 : Byte).toNat < 2 ∧
      ∀ j : HoldSlot, 20 ≤ j.val → (crowded 12).hold j ≠ none) ∧
    (coach.taking = true ∧ 4 ≤ (4#8 : Byte).toNat ∧ 2 ≤ (2#8 : Byte).toNat) := by decide

theorem test_meets_HoldRequests :
    (let s := held (some 1000000);
      (2#8 : Byte).toNat < 8 ∧ (20 : HoldSlot).val = (20#8 : Byte).toNat % 32 ∧
      s.holds[(20 : HoldSlot)].gen = (20#8 : Byte).toNat / 32 ∧ s.hold 20 = some (guestHold (some 1000000)) ∧
      (guestHold (some 1000000)).owner = .party 2 ∧ (2#8 : Byte).toNat = 2 ∧ (0#8 : Byte).toNat = 0 ∧ s.quiet = true ∧
      s.taking = true ∧ (guestHold (some 1000000)).expiry.isSome = true) ∧
    (held none).quiet = true ∧ (held none).hold 20 = some (guestHold none) ∧ (guestHold none).expiry = none := by decide

/-- ESTOP as it stands, and after its line has gone. -/
theorem test_meets_HoldRefusals :
    (coach.taking = true ∧ (20 : HoldSlot).val = (20#8 : Byte).toNat % 32 ∧ coach.hold 20 = none) ∧
    ((held none).taking = true ∧ (held none).holds[(20 : HoldSlot)].gen ≠ (0xF4#8 : Byte).toNat / 32 ∧
      (20 : HoldSlot).val = (0xF4#8 : Byte).toNat % 32 ∧ (1#8 : Byte).toNat ≠ 0 ∧ (1#8 : Byte).toNat ≠ 2 ∧
      (guestHold none).latched = false) ∧
    (let s := estopped true coach;
      s.taking = true ∧ s.holds[(0 : HoldSlot)].gen = (0#8 : Byte).toNat / 32 ∧
      (s.hold 0).map (fun x => (x.owner, x.latched, x.state)) = some (.monitor, true, .active)) := by decide

theorem test_meets_ClearHoldRemoves :
    let s := estopped false (estopped true coach)
    Inv s ∧ s.quiet = true ∧ (0 : HoldSlot).val = (0#8 : Byte).toNat % 32 ∧
    s.holds[(0 : HoldSlot)].gen = (0#8 : Byte).toNat / 32 ∧
    (s.hold 0).map (fun x => (x.owner, x.latched, x.state, x.cause)) = some (.monitor, true, .pendingClear, .estop) ∧
    s.mon.estp.active = false :=
  ⟨inv_estopped (inv_estopped inv_coach (by decide)) (by decide), by decide⟩

/-! ## The hypotheses of the statements: setup -/

/-- The bytes of the default channel setup, and the same with a new span. -/
def channelBytes (span : Nat) : List Byte := encodeChannelSetup { ChannelSetup.default with span := span }

theorem test_meets_SetChannelWrites :
    coach.taking = true ∧ (channelBytes 1000).length = 29 ∧ (decodeChannelSetup (channelBytes 1000)).isSome = true ∧
    decodeChannelSetup (channelBytes 0) = none ∧ un16 0#8 0#8 = 0 ∧ 4096 ≤ un16 0#8 16#8 ∧
    (un16 0xFF#8 15#8 ≠ 0 ∧ un16 0xFF#8 15#8 < 4096) ∧
    ((un16 16#8 0#8).testBit (4 : Chan).val = true ∧ travelling.claims[(4 : Chan)] ≠ none) ∧ travelling.taking = true ∧
    ∀ c : Chan, (un16 0xFF#8 15#8).testBit c.val = true → coach.claims[c] = none := by decide

/-- The default channel setup in another value of each field that acts at once. -/
def otherSetups : List ChannelSetup :=
  let d := ChannelSetup.default
  [{ d with span := 32767 }, { d with dirInvert := true }, { d with eniLevel := .activeLow }, { d with enoLevel := .activeLow },
    { d with auxLevel := .activeLow }, { d with trpLevel := .activeLow }, { d with filter := 2 },
    { d with filter := 10 }, { d with endTolerance := 10 }]

/-- The slide's channel with its inputs in given states, a wait of 2 ms in the filter of each, and the pins all at a level. -/
def inputs (i o a r pin : Bool) : State :=
  let s := slideAt { known 100 with
    inActive := i, outActive := o, auxActive := a, trpActive := r, eniWait := some 2000, enoWait := some 2000,
    auxWait := some 2000 }
  setPin 4 (fun _ => { eni := pin, eno := pin, aux := pin, trp := pin }) s

/-- Each field alone; each input unchanged, coming and going under the new polarity, alone and beside the other end; a wait
that the new filter time completes, and one that it does not. -/
theorem test_meets_SetChannelActs :
    (∀ i o a r pin : Bool, (inputs i o a r pin).quiet = true ∧ (inputs i o a r pin).claims[(4 : Chan)] = none ∧
      ((inputs i o a r pin).chan 4).state = .idle ∧ ((inputs i o a r pin).chan 4).inActive = i ∧
      ((inputs i o a r pin).chan 4).outActive = o ∧ ((inputs i o a r pin).chan 4).trpActive = r ∧
      activeOf .activeLow (inputs i o a r pin).pins.chan[(4 : Chan)].eni = !pin) ∧
    (∀ i o a r pin : Bool, ∀ k : OrderSlot, ((inputs i o a r pin).order k).isNone = true) ∧
    (∀ x ∈ otherSetups, (encodeChannelSetup x).length = 29 ∧ decodeChannelSetup (encodeChannelSetup x) = some x) ∧
    un16 16#8 0#8 = 2 ^ (4 : Chan).val ∧
    otherSetups.map (fun x => [decide (x.span = 1000), decide (x.dirInvert = false), decide (x.eniLevel = .activeHigh),
      decide (x.enoLevel = .activeHigh), decide (x.auxLevel = .activeHigh), decide (x.trpLevel = .activeHigh),
      decide (x.filter = 5)]) =
      ([some 0, some 1, some 2, some 3, some 4, some 5, some 6, some 6, none] : List (Option Nat)).map (fun k =>
        (List.range 7).map fun j => decide (k ≠ some j)) ∧
    ((inputs true false false false true).cfg 4).span = 1000 ∧
    ((inputs true false false false true).cfg 4).filter = 5 ∧ 2 * 1000 ≤ 2000 ∧ ¬10 * 1000 ≤ 2000 :=
  ⟨by decide, by decide, by decide +kernel, by decide, by decide, by decide, by decide, by decide, by decide⟩

/-- The arguments that make assembly 4 a slide of channel 4, which leaves assembly 1 without one; and of channel 8. -/
def slideArgs (c : Byte) : List Byte := [4#8, 1#8, 0#8, 100#8, 0#8, 0x90#8, 1#8, 1#8, c]

theorem test_meets_SetAssembly :
    (coach.quiet = true ∧ formSetAssembly (slideArgs 8#8) = true ∧
      asmArgs (slideArgs 8#8) = some (4, asmOn .slide [8]) ∧
      writeFits coach.setup.asms 4 (asmOn .slide [8]) = true ∧ coach.writeBusy 4 (asmOn .slide [8]) = false) ∧
    (asmArgs (slideArgs 12#8) = none ∧ formSetAssembly (slideArgs 12#8) = true) ∧
    (asmArgs (slideArgs 4#8) = some (4, asmOn .slide [4]) ∧ writeFits coach.setup.asms 4 (asmOn .slide [4]) = false) ∧
    (let s := coach.setClaim 8 (some 0);
      s.taking = true ∧ (8 : Chan) ∈ (asmOn .slide [8]).channels ++ (s.asmCfg 4).channels ∧ s.claims[(8 : Chan)] ≠ none) ∧
    (let o := { travelOf .armed .wait with mask := 0x10#8 };
      (coach.setOrder 0 o).order 0 = some o ∧ o.state.live = true ∧ o.mask.getLsbD (4 : Asm).val = true) := by decide

/-- A twin slide that gives up one channel: its other channel is claimed, or a live order names it. -/
theorem test_meets_SetAssembly_donor :
    asmArgs (slideArgs 7#8) = some (4, asmOn .slide [7]) ∧ writeFits coach.setup.asms 4 (asmOn .slide [7]) = true ∧
    (7 : Chan) ∈ (coach.asmCfg 3).channels ∧ (6 : Chan) ∈ (coach.asmCfg 3).channels ∧
    answerOf (.setAssembly 0#8 (slideArgs 7#8)) (coach.setClaim 6 (some 0)) = some (answerBytes .busy []) ∧
    answerOf (.setAssembly 0#8 (slideArgs 7#8)) (coach.setOrder 0 { travelOf .armed .wait with mask := 0x08#8 }) =
      some (answerBytes .busy []) := by decide +kernel

/-- Disjoint, a clause of SET_ASSEMBLY, holds of the coach. -/
theorem test_meets_Disjoint : Disjoint coach.setup.asms := by
  have h : ∀ (a b : Asm) (c : Chan), c ∈ coach.setup.asms[a].channels → c ∈ coach.setup.asms[b].channels → a = b := by
    decide +kernel
  exact h

theorem test_meets_setups :
    (coach.quiet = true ∧ decodeLeveller [5#8, 5#8, 0xF4#8, 1#8, 200#8] ≠ none ∧
      decodeLeveller [4#8, 5#8, 0xF4#8, 1#8, 200#8] = none) ∧
    (decodeWind [5#8, 6#8, 1#8, 60#8, 0#8, 0#8, 1#8] ≠ none ∧ decodeWind [120#8, 150#8, 10#8, 8#8, 7#8, 2#8, 255#8] ≠ none ∧
      decodeWind [6#8, 6#8, 1#8, 60#8, 0#8, 0#8, 1#8] = none ∧ windWindowOf 0#8 = some .half ∧
      WindWindow.half ≠ coach.setup.wind.window ∧ windWindowOf 1#8 = some coach.setup.wind.window) ∧
    (let s := { coach with mon := { coach.mon with tripped := true, calm := some 60000000 } };
      s.quiet = true ∧ 60 ≠ s.setup.wind.calmTime ∧ s.mon.calm = some 60000000 ∧ 60 * 1000000 ≤ 60000000) ∧
    ([0#8, 1#8, 1#8, 1#8].length = 4 ∧ decodeLines [0#8, 1#8, 1#8, 1#8] ≠ none ∧ decodeLines [2#8, 0#8, 1#8, 1#8] = none) ∧
    ((3#8 : Byte) = byte (3 : Fin 4).val ∧ (2#8 : Byte) = byte (2 : Asm).val ∧ (1#8 : Byte) = byte (1 : Asm).val ∧
      (coach.asmCfg 2).kind = .awning ∧ (coach.asmCfg 1).kind = .slide ∧ (coach.asmCfg 0).kind ≠ .awning ∧
      4 ≤ (4#8 : Byte).toNat ∧ 8 ≤ (8#8 : Byte).toNat) ∧
    (let s := { coach with setup := { coachSetup with protect := 10 } };
      s.quiet = true ∧ 32 < (33#8 : Byte).toNat ∧ (32#8 : Byte).toNat ≤ 32 ∧ (9#8 : Byte).toNat < s.setup.protect ∧
      s.setup.protect ≤ (10#8 : Byte).toNat ∧ (1#8 : Byte) ≠ 0#8) := by decide

theorem test_meets_SetProtectEvaluatesEveryCause :
    Inv coach ∧ coach.quiet = true ∧ (7#8 : Byte).toNat < 8 ∧ (32#8 : Byte).toNat ≤ 32 ∧
    coach.setup.protect ≤ (32#8 : Byte).toNat ∧
    (let s := { coach with mon := { coach.mon with estp := { active := true, wait := none } } };
      Inv s ∧ s.quiet = true ∧ s.mon.estp.active = true) ∧
    (let s := slideAt { known 0 with trpActive := true };
      Inv s ∧ s.quiet = true ∧ s.faultStands 1 = true) :=
  ⟨inv_coach, by decide, by decide, by decide, by decide, ⟨inv_mon _, by decide⟩, ⟨inv_slideAt _, by decide⟩⟩

/-! ## The hypotheses of the statements: the store -/

theorem test_meets_StageWriteWraps :
    coach.taking = true ∧ 1 ≤ [0#8].length ∧ (List.replicate 16 (0#8 : Byte)).length ≤ 16 ∧
    coach.store.staging.length = 64 ∧ 63 < (64#8 : Byte).toNat ∧ (63#8 : Byte).toNat ≤ 63 := by decide

/-- The arguments that save a staged image to slot 31, and capture the awning to slot 3 with the tag A. -/
def stagedArgs : List Byte := [31#8, 0#8]
def presetArgs : List Byte := [3#8, 1#8, 2#8, 4#8, 65#8] ++ List.replicate 11 0#8

/-- The coach with its awning AT_IN. -/
def awningIn : State := coach.setAsm 2 { AsmLive.reset with summary := .atIn, settled := true }

theorem test_meets_SaveAndErase :
    (coach.taking = true ∧ coach.setup.protect ≤ (31 : ProfileSlot).val ∧ coach.store.state = .idle ∧
      coach.pinned 31 = 0) ∧
    (let s := awningIn;
      s.taking = true ∧ formSaveProfile presetArgs = true ∧ (saveArgs presetArgs).map (·.1) = some 3 ∧
      ((saveArgs presetArgs).bind fun x => match s.saveImage x.2 with
        | .ok bs => some bs.length
        | .error _ => none) = some 62) ∧
    (formSaveProfile stagedArgs = true ∧ saveArgs stagedArgs = some (31, .staged)) ∧
    (let s := { coach with setup := { coachSetup with protect := 32 } };
      s.taking = true ∧ (31 : ProfileSlot).val < s.setup.protect) ∧
    (let s := storing .erasing .erase (.slot 3) (.erase 0);
      s.taking = true ∧ s.setup.protect ≤ (31 : ProfileSlot).val ∧ s.store.state ≠ .idle) ∧
    (let s := reading coach;
      s.taking = true ∧ s.store.state = .idle ∧ s.pinned 3 ≠ 0 ∧ s.setup.protect ≤ (3 : ProfileSlot).val) := by decide

/-- A slot above 31, named by an erase, by a staged save and by a capture. -/
theorem test_meets_SlotsAboveThirtyOne :
    coach.taking = true ∧ (0#8 : Byte).toNat < 8 ∧ 32 ≤ (32#8 : Byte).toNat ∧ 32 ≤ (255#8 : Byte).toNat ∧
    formSaveProfile (32#8 :: [0#8]) = true ∧ formSaveProfile (255#8 :: presetArgs.drop 1) = true := by decide

theorem test_meets_CommitBegins :
    (coach.taking = true ∧ coach.store.state = .idle) ∧
    (storing .suspended .commit .setupArea (.row 31)).taking = true ∧
    (storing .suspended .commit .setupArea (.row 31)).store.state ≠ .idle := by decide

/-- Slot 3 EMPTY, VALID with an image that reads back and with one that does not, and INVALID. -/
def slotState (st : DirState) (m : Memory) : State :=
  setDir 3 (DirEntry.plain st) { coach with nv := { coach.nv with mem := m } }

/-- An image of 64 bytes whose CRC-16 agrees, in slot 3. -/
def goodSlot : Memory := Memory.program [] 0 192 (sealImage (List.replicate 62 0#8))

theorem test_meets_ReadProfile :
    (coach.taking = true ∧ 32 ≤ (32#8 : Byte).toNat) ∧ (storing .erasing .save (.slot 31) (.erase 0)).store.state ≠ .idle ∧
    ((slotState .empty []).store.state = .idle ∧ ((slotState .empty []).store.directory[(3 : ProfileSlot)]).state = .empty) ∧
    (let s := slotState .valid goodSlot;
      s.taking = true ∧ s.store.state = .idle ∧ (s.store.directory[(3 : ProfileSlot)]).state ≠ .empty ∧
      (crc16 ((s.nv.mem.readList ((3 : ProfileSlot).val * 64) 64).take 62)).toNat =
        at16 (s.nv.mem.readList ((3 : ProfileSlot).val * 64) 64) 62) ∧
    (let s := slotState .valid [];
      (s.store.directory[(3 : ProfileSlot)]).state = .valid ∧
      (crc16 ((s.nv.mem.readList ((3 : ProfileSlot).val * 64) 64).take 62)).toNat ≠
        at16 (s.nv.mem.readList ((3 : ProfileSlot).val * 64) 64) 62) ∧
    ((slotState .invalid []).store.directory[(3 : ProfileSlot)]).state = .invalid := by decide +kernel

/-- The first and the last erase of a commit, and the erase of a save. -/
theorem test_meets_EraseStepGoesOn :
    (let s := storing .erasing .commit .setupArea (.erase 0);
      s.taking = true ∧ s.nv.mem.wf = true ∧ s.store.state = .erasing ∧ s.store.op.isSome = true ∧
      0 < OpPlace.setupArea.units ∧ 0 + 1 < OpPlace.setupArea.units) ∧
    (let s := storing .erasing .commit .setupArea (.erase 7);
      s.taking = true ∧ s.store.state = .erasing ∧ 7 < OpPlace.setupArea.units ∧ 7 + 1 = OpPlace.setupArea.units ∧
      OpKind.commit ≠ .erase) ∧
    (let s := storing .erasing .save (.slot 31) (.erase 0);
      s.taking = true ∧ s.store.state = .erasing ∧ 0 + 1 = (OpPlace.slot 31).units ∧ OpKind.save ≠ .erase) := by decide

theorem test_meets_RowStepGoesOn :
    ∀ r ∈ [0, 30],
      let s := storing .programming .commit .setupArea (.row r)
      s.taking = true ∧ s.store.state = .programming ∧ s.store.op.map (·.step) = some (.row r) ∧
      r + 1 < OpPlace.setupArea.units * 4 ∧
      s.store.op.map (·.image.length) = some (OpPlace.setupArea.units * 64) ∧
      (∀ j, j < 16 → s.nv.mem.read (OpPlace.setupArea.base + 16 * r + j) = 0xFF#8) ∧ s.nv.mem.wf = true := by decide +kernel

/-- The last step of each operation, with none of its bytes failing and with one. -/
theorem test_meets_LastStepVerifies :
    (let s := storing .erasing .erase (.slot 31) (.erase 0);
      s.taking = true ∧ s.store.state = .erasing ∧ 0 + 1 = (OpPlace.slot 31).units ∧
      ((after (.eraseStepEnd []) s).map (·.flag .storeDone)) = some true ∧
      ((after (.eraseStepEnd [(31 * 64, 0#8)]) s).map (·.flag .storeFailed)) = some true) ∧
    (let s := storing .programming .save (.slot 31) (.row 3);
      s.taking = true ∧ s.store.state = .programming ∧ OpKind.save ≠ .erase ∧ 3 + 1 = (OpPlace.slot 31).units * 4 ∧
      ((after (.rowStepEnd []) s).map (·.flag .storeFailed)) = some true) ∧
    (let s := storing .programming .commit .setupArea (.row 31);
      s.taking = true ∧ s.store.state = .programming ∧ OpKind.commit ≠ .erase ∧
      31 + 1 = OpPlace.setupArea.units * 4) := by decide

/-- The last erase and the last row, over an array that lists other bytes, with a byte that did not take the step. -/
theorem test_meets_LastStepVerifies_bytes :
    (let s := storing .erasing .erase (.slot 31) (.erase 0);
      let s := s.withMem [(1983, 1#8), (1984, 2#8), (2047, 3#8), (2048, 4#8)];
      s.nv.mem.wf = true ∧ OpStep.erase 0 = .erase 0 ∧
      (after (.eraseStepEnd [(1985, 9#8)]) s).map (·.nv.mem) = some [(1983, 1#8), (1985, 9#8), (2048, 4#8)]) ∧
    (let s := storing .programming .save (.slot 31) (.row 3);
      let s := s.withMem [(2031, 1#8), (2048, 4#8)];
      s.nv.mem.wf = true ∧ s.store.op.map (·.image.length) = some ((OpPlace.slot 31).units * 64) ∧
      (∀ j, j < 16 → s.nv.mem.read ((OpPlace.slot 31).base + 16 * 3 + j) = 0xFF#8) ∧
      (after (.rowStepEnd [(2032, 9#8)]) s).map (fun t => (t.nv.mem.readList 2031 3, t.nv.mem.readList 2046 3)) =
        some ([1#8, 9#8, 0x11#8], [0x11#8, 0x11#8, 4#8])) := by decide +kernel

theorem test_meets_ReadsSuspendAndAreServed :
    (let s := storing .erasing .erase (.slot 3) (.erase 0);
      s.taking = true ∧ s.store.state = .erasing ∧ s.store.op.map (·.guard) = some 0 ∧ s.store.queue = [] ∧
      (reading s).taking = true ∧ (reading s).store.queue ≠ []) ∧
    (let s := storing .programming .save (.slot 3) (.row 0);
      s.store.state = .programming ∧ (reading s).store.queue ≠ []) ∧
    (let s := storing .suspended .erase (.slot 3) (.erase 0);
      s.taking = true ∧ s.store.queue = [] ∧ s.store.state = .suspended ∧ s.store.op.isSome = true) ∧
    (coach.store.queue = [] ∧ coach.store.state = .idle) ∧
    (let s := reading (ordered (travelOf .loading .wait) (known 200));
      s.quiet = true ∧ s.store.queue = [{ order := 0#8, slot := 3 }] ∧ s.store.state = .idle ∧
      s.findOrder 0#8 = some 0 ∧ s.order 0 = some (travelOf .loading .wait) ∧
      imageCrcOk (s.slotBytes 3) = false) := by decide +kernel

/-! ## The hypotheses of the statements: orders -/

/-- The arguments of an ORDER_TRAVEL of the slide with start mode ARMED: to a position, and IN. -/
def travelBytes (kind lo hi : Byte) : List Byte := [2#8, kind, lo, hi, 0#8, 1#8, 0#8]

theorem test_meets_ArmedTravel :
    let s := slideAt (known 100)
    s.ordering = true ∧ formOrderTravel (travelBytes 2#8 0#8 0#8) = true ∧
    (∀ p ∈ [0, 1000],
      travelArgs (travelBytes 2#8 (BitVec.ofNat 8 p) (BitVec.ofNat 8 (p / 256))) =
        some ([{ asm := 1, target := .at p }], .creep, .armed, false) ∧
      s.targetInSpan 1 (.at p) = true ∧ s.targetHomed 1 (.at p) = true) ∧
    s.travels 1 = true ∧ s.freePartySlot = some 0 ∧ s.maskMembers 2#8 = [4] ∧ s.unclaimed [4] = true ∧
    s.targetFor [{ asm := 1, target := .at 0 }] 4 = some (.at 0) ∧
    (OrderTarget.at 0).direction (s.chan 4).position = some .dirIn ∧ s.blocked 4 .dirIn = false ∧
    s.blocked 4 .dirOut = false := by decide

/-- The coach with its jacks at a known position. -/
def jacksKnown : State := forAll [0, 1, 2, 3] (fun c s => s.setChan c (known 500)) coach

theorem test_meets_ArmedJogLevelStow :
    (jacksKnown.ordering = true ∧ boolOf 0#8 = some false ∧ boolOf 1#8 = some true ∧ jacksKnown.freePartySlot = some 0) ∧
    (sx16 0xD0#8 7#8 = 2000 ∧ sx16 0x30#8 0xF8#8 = -2000 ∧ (2000 : Int).natAbs ≤ 2000 ∧ jacksKnown.asmOf 4 = some 1 ∧
      jacksKnown.unclaimed [4] = true ∧ jacksKnown.blocked 4 .dirOut = false ∧ jacksKnown.blocked 4 .dirIn = false) ∧
    (jacksKnown.stanceAsm = some 0 ∧ jacksKnown.unclaimed (jacksKnown.asmCfg 0).channels = true ∧
      ∀ j ∈ (jacksKnown.asmCfg 0).channels, jacksKnown.blocked j .dirOut = false ∧ jacksKnown.blocked j .dirIn = false ∧
        (jacksKnown.chan j).positionKnown = true) := by decide

/-- The coach with its jacks known and slot 3 VALID, of a kind. -/
def stored (kind : ProfileKind) : State :=
  setDir 3 { state := .valid, kind := some kind, count := 1, tag := [65#8] } jacksKnown

theorem test_meets_RecallQueuesItsRead :
    (let s := stored .stance;
      s.ordering = true ∧ recallArgs [3#8, 1#8, 0#8, 0#8, 0#8] = some (3, .creep, .now, false) ∧
      (∀ a ∈ maskAsms 1#8, (s.asmCfg a).kind ≠ .none) ∧
      (match s.recallKind 3 1#8 with
        | .ok k => decide (k = .stance)
        | .error _ => false) = true ∧
      (∀ c ∈ s.maskMembers 1#8, (s.chan c).positionKnown = true ∧ s.blocked c .dirOut = false) ∧
      s.freePartySlot = some 0 ∧ s.unclaimed (s.maskMembers 1#8) = true ∧ s.store.op = none) ∧
    (let s := stored .preset;
      recallArgs [3#8, 2#8, 0#8, 1#8, 1#8] = some (3, .creep, .armed, true) ∧
      (match s.recallKind 3 2#8 with
        | .ok k => decide (k = .preset)
        | .error _ => false) = true ∧ s.unclaimed (s.maskMembers 2#8) = true) ∧
    ((storing .erasing .erase (.slot 5) (.erase 0)).store.op.map (·.guard)) = some 0 := by decide

theorem test_meets_JogDrivesAtOnce :
    ∀ ch ∈ [known 100, Channel.reset],
      let s := slideAt ch
      s.quiet = true ∧ s.ordering = true ∧ (1#8 : Byte).toNat < 2 ∧ sx16 5#8 0#8 ≠ 0 ∧ (sx16 5#8 0#8).natAbs ≤ 2000 ∧
      s.asmOf 4 = some 1 ∧ s.freePartySlot = some 0 ∧ s.unclaimed [4] = true ∧ s.drivable 4 = true ∧
      s.blocked 4 .dirOut = false ∧ jogArrived (s.cfg 4) (s.chan 4) .dirOut = false := by decide

theorem test_meets_TravelDrivesAtOnce :
    (∀ ch ∈ [known 100, Channel.reset],
      let s := slideAt ch
      s.quiet = true ∧ s.ordering = true ∧ s.travels 1 = true ∧ (s.asmCfg 1).channels = [4] ∧ s.asmOf 4 = some 1 ∧
      s.freePartySlot = some 0 ∧ s.unclaimed [4] = true ∧ s.drivable 4 = true ∧ s.blocked 4 .dirIn = false ∧
      alreadyThere (s.cfg 4) (s.chan 4) OrderTarget.inn.goal = false ∧
      alreadyThere (s.cfg 4) (s.chan 4) OrderTarget.out.goal = false) ∧
    orderTargetOf 0#8 (un16 0#8 0#8) = some .inn ∧ orderTargetOf 1#8 (un16 0#8 0#8) = some .out ∧
    profileOf 2#8 = some .ramped := by decide

/-- The coach with its jacks at a known position, some of them in contact, and a SET stance. -/
def jacksDown (cs : List Chan) : State :=
  let s := forAll cs (fun c s => s.setChan c { known 500 with auxActive := true }) jacksKnown
  { s with lev := { s.lev with stance := .set } }

/-- No jack in contact, some, and all, with the tilt meter VALID and not. -/
theorem test_meets_LevelAndStowDriveTheJacks :
    (∀ s ∈ [jacksKnown, jacksDown [0, 2], jacksDown [0, 1, 2, 3]],
      s.quiet = true ∧ s.ordering = true ∧ s.stanceAsm = some 0 ∧ (s.asmCfg 0).channels ≠ [] ∧
      s.freePartySlot = some 0 ∧ s.unclaimed (s.asmCfg 0).channels = true ∧ s.claims[(4 : Chan)] ≠ some 0 ∧
      ∀ c ∈ (s.asmCfg 0).channels, (s.drivable c = true ∧ s.asmOf c = some 0) ∧
        (s.chan c).positionKnown = true ∧ s.blocked c .dirOut = false ∧ s.blocked c .dirIn = false ∧
        alreadyThere (s.cfg c) (s.chan c) .endOut = false ∧ alreadyThere (s.cfg c) (s.chan c) .endIn = false) ∧
    (4 : Chan) ∉ (coach.asmCfg 0).channels ∧
    (∀ c ∈ (coach.asmCfg 0).channels, (jacksKnown.chan c).auxActive = false ∧
      ((jacksDown [0, 1, 2, 3]).chan c).auxActive = true) ∧ jacksKnown.tilt.valid = false := by decide

/-- An ARMED order amended; a RUNNING one amended behind its channel, ahead of it, and at the end of its span. -/
theorem test_meets_AmendReplacesATarget :
    (let s := ordered (travelOf .armed .wait) (known 200);
      s.ordering = true ∧ s.order 0 = some (travelOf .armed .wait) ∧ (travelOf .armed .wait).owner = .party 1 ∧
      (travelOf .armed .wait).kind = .travel ∧ (travelOf .armed .wait).mask.getLsbD (1 : Asm).val = true ∧
      orderTargetOf 2#8 (un16 0xE8#8 3#8) = some (.at 1000) ∧ s.targetInSpan 1 (.at 1000) = true ∧
      s.targetHomed 1 (.at 1000) = true) ∧
    (let s := travelling;
      s.quiet = true ∧ s.ordering = true ∧ s.asmOf 4 = some 1 ∧ (s.chan 4).state.pursuing = true ∧
      (travelOf .running .moving).entries.map (fun e => (e.chan, e.state)) = [(4, .moving)] ∧
      orderTargetOf 2#8 (un16 199#8 0#8) = some (.at 199) ∧ liesAhead (s.chan 4) (.at 199) = false ∧
      orderTargetOf 2#8 (un16 201#8 0#8) = some (.at 201) ∧ liesAhead (s.chan 4) (.at 201) = true ∧
      alreadyThere (s.cfg 4) (s.chan 4) (.at 201) = false ∧ s.targetInSpan 1 (.at 201) = true) := by decide

/-- An order in each state that CANCEL and RETIRE tell apart. -/
theorem test_meets_orders_by_handle :
    (∀ st ∈ [OrderState.loading, .armed, .blocked, .easing, .done, .expired],
      let s := ordered (travelOf st .wait) (known 200)
      s.ordering = true ∧ (0 : OrderSlot).val = (0#8 : Byte).toNat % 8 ∧
      s.orders[(0 : OrderSlot)].gen = (0#8 : Byte).toNat / 8 ∧ s.order 0 = some (travelOf st .wait)) ∧
    ((travelOf .running .wait).anyMoving = false ∧ (travelOf .running .moving).anyMoving = true ∧
      travelling.order 0 = some (travelOf .running .moving)) ∧
    ((2#8 : Byte).toNat ≠ 0 ∧ (travelOf .armed .wait).owner ≠ .party (2#8 : Byte).toNat ∧
      (travelOf .armed .wait).owner = .party (1#8 : Byte).toNat) ∧
    OrderState.done.live = false ∧ ({ travelOf .done .arrived with linger := some 1 } : Order).linger ≠ none := by decide

/-- An ARMED travel to a position whose channel has lost its own, and one whose channel has not. -/
theorem test_meets_ReleaseByState :
    (ordered (travelOf .armed .wait) (known 200)).ordering = true ∧
    (let o := { travelOf .armed .wait with entries := [{ newEntry 4 with goal := some (.at 50) }] };
      (ordered o Channel.reset).ordering = true ∧ (ordered o Channel.reset).order 0 = some o ∧
      o.entries.all (fun e => !((ordered o Channel.reset).chan e.chan).positionKnown) = true ∧
      o.entries.map (·.goal) = [some (.at 50)] ∧
      o.entries.all (fun e => ((ordered o (known 200)).chan e.chan).positionKnown) = true) := by decide

/-- An ARMED jog of the slide. -/
def armedJog (d : Int) : Order := { (slideAt (known 100)).jogOrder 1#8 4 1 d .armed false with armed := some 1 }

theorem test_meets_ReleaseDrivesAJog :
    (∀ k : OrderSlot, coach.order k = none) ∧
    ∀ d ∈ [(2000 : Int), -2000],
      let s := ordered (armedJog d) (known 100)
      s.quiet = true ∧ s.ordering = true ∧ s.order 0 = some (armedJog d) ∧ (armedJog d).state = .armed ∧
      (armedJog d).kind = .jog ∧ (armedJog d).owner = .party 1 ∧
      (armedJog d).entries = [{ newEntry 4 with
        direction := some (if 0 < d then .dirOut else .dirIn), goal := some (.distance d.natAbs) }] ∧
      s.claims[(4 : Chan)] = some 0 ∧ s.drivable 4 = true ∧ s.blocked 4 .dirOut = false ∧ s.blocked 4 .dirIn = false ∧
      jogArrived (s.cfg 4) (s.chan 4) (if 0 < d then .dirOut else .dirIn) = false ∧
      ∀ j : OrderSlot, j ≠ 0 → s.order j = none := by decide

theorem test_meets_ArmedTimerExpires :
    let s := ordered (armedJog 5) (known 100)
    s.taking = true ∧ s.quiet = true ∧ s.order 0 = some (armedJog 5) ∧ (armedJog 5).state = .armed ∧
    (armedJog 5).armed ≠ none := by decide

/-- STOP_ALL with no order live raises ORDER_END (R106, R184). -/
theorem test_stopAll_raises : (after (.stopAll 1#8 []) coach).map (·.flag .orderEnd) = some true := by decide +kernel

theorem test_meets_StopAllStopsEverything :
    travelling.ordering = true ∧ (travelling.chan 4).state ≠ .idle ∧ (travelling.chan 5).state = .idle ∧
    travelling.order 0 = some (travelOf .running .moving) ∧ OrderState.running.live = true := by decide

/-! ## The hypotheses of the statements: channels -/

/-- A channel with its ends in a given state. -/
def ends (ch : Channel) (i o : Bool) : State := slideAt { ch with inActive := i, outActive := o }

/-- One end sensor and both, at rest, moving toward the end, away from it, and EASING. -/
theorem test_meets_EndSensors :
    (∀ ch ∈ [known 100, outward 950, outward 200, { outward 200 with direction := .dirIn },
        { outward 990 with state := .easing }], ∀ i o : Bool, (ends ch i o).quiet = true ∧
        ((ends ch i o).chan 4).inActive = i ∧ ((ends ch i o).chan 4).outActive = o) ∧
    ((outward 200).direction = .dirOut ∧ (outward 200).state.pursuing = true ∧
      ({ outward 990 with state := .easing } : Channel).state = .easing ∧ (known 100).state = .idle) := by decide

/-- A trip in motion and at rest, its end with the hold ACTIVE, and contact of a jack under a SET stance. -/
theorem test_meets_TripsAndContact :
    (travelling.quiet = true ∧ (travelling.chan 4).trpActive = false ∧ (travelling.chan 4).state ≠ .idle ∧
      travelling.asmOf 4 = some 1 ∧ (4 : Chan) ∈ (travelling.asmCfg 1).channels ∧ (travelling.asm 1).engaged = false) ∧
    (Inv coach ∧ coach.asmOf 4 = some 1 ∧ (coach.chan 4).trpActive = false) ∧
    (let s := evalFault 1 (slideAt { known 0 with trpActive := true });
      Inv s ∧ s.quiet = true ∧ (s.chan 4).trpActive = true ∧
      (s.hold 0).map (fun x => (x.owner, x.cause, x.subject, x.state)) = some (.monitor, .fault, some 1, .active) ∧
      ∀ d ∈ (s.asmCfg 1).channels, (d ≠ 4 → (s.chan d).trpActive = false) ∧
        ((s.chan d).inActive && (s.chan d).outActive) = false) ∧
    (let s := { jacksKnown with lev := { jacksKnown.lev with stance := .set } };
      s.quiet = true ∧ (s.chan 0).auxActive ≠ true ∧ s.isJack 0 = true ∧ s.isJack 4 = false ∧ s.lev.stance = .set ∧
      ((s.setChan 0 { known 500 with auxActive := true }).chan 0).auxActive ≠ false) :=
  ⟨by decide, ⟨inv_coach, by decide⟩, ⟨(evaluated_evalFault 1 _).ran.inv (inv_slideAt _) (by decide), by decide⟩, by decide⟩

/-- A count at rest within the drift limit, at it, at an unknown position and within the coast window; in motion, EASING, at
the clamp, at an AT target, at a distance, and where an end has not been found. -/
theorem test_meets_Counts :
    (∀ ch ∈ [{ known 100 with drift := 14 }, { known 100 with drift := 15 }, Channel.reset,
        { known 100 with coastTimer := some 1 }, outward 200, { outward 200 with state := .easing }, outward 1000,
        { outward 0 with direction := .dirIn }],
      (slideAt ch).quiet = true ∧ (slideAt ch).chan 4 = ch) ∧
    (let ch := { outward 200 with target := .at 201 };
      ch.state.pursuing = true ∧ ch.positionKnown = true ∧ ch.position + 1 = 201 ∧
      ch.position < ((slideAt ch).cfg 4).span) ∧
    (let ch := { outward 200 with target := .distance 7, travelled := 6 };
      ch.state.pursuing = true ∧ min (ch.travelled + 1) 65535 = 7) ∧
    (let ch := { outward 200 with target := .distance 65535, travelled := 65535 };
      ch.state.pursuing = true ∧ min (ch.travelled + 1) 65535 = 65535) ∧
    (let ch := { outward 0 with positionKnown := false, travelled := 1099 };
      ch.state.pursuing = true ∧ ch.target = .endOut ∧ ch.positionKnown = false ∧
      ((slideAt ch).cfg 4).span + ((slideAt ch).cfg 4).endWindow ≤ min (ch.travelled + 1) 65535) := by decide

/-- The setup of the slide's channel with ends found by stall. -/
def stallEnds : State :=
  setCfg 4 { coachSetup.channels[(4 : Chan)] with inMode := .stall, outMode := .stall } travelling

theorem test_meets_ChannelTimers :
    (∀ ch ∈ [outward 200, { outward 900 with state := .approach }, { outward 200 with state := .easing, duty := 6 },
        { outward 200 with state := .easing, duty := 5 }],
      (slideAt ch).quiet = true ∧ ((slideAt ch).chan 4).rampTimer ≠ none ∧ ((slideAt ch).chan 4).stallTimer ≠ none ∧
      ((slideAt ch).cfg 4).rampStep = 5) ∧
    ((coach.chan 4).rampTimer = none ∧ (coach.chan 4).stallTimer = none) ∧
    (let s := stallEnds.setChan 4 { outward 100 with direction := .dirIn, target := .endIn };
      s.quiet = true ∧ (s.chan 4).state.driving = true ∧ (s.cfg 4).inMode = .stall ∧
      (s.chan 4).position ≤ (s.cfg 4).endWindow) ∧
    (let s := stallEnds.setChan 4 (outward 900);
      s.quiet = true ∧ (s.cfg 4).outMode = .stall ∧ (s.cfg 4).span - (s.chan 4).position ≤ (s.cfg 4).endWindow) ∧
    (let s := stallEnds.setChan 4 (outward 899);
      s.quiet = true ∧ (s.chan 4).positionKnown = true ∧
      (s.cfg 4).endWindow < (s.cfg 4).span - (s.chan 4).position) ∧
    (travelling.cfg 4).outMode = .sensor ∧ (travelling.chan 4).target = .endOut := by decide

/-- A channel paused from each driving state, before and after its creep-in. -/
def pausedFrom (pf : PausedFrom) (p n : Nat) : Channel :=
  { outward p with state := .paused, pausedFrom := pf, dutyHeld := 40, duty := 0, travelled := n }

theorem test_meets_ChannelCommands :
    (∀ ch ∈ [{ outward 200 with state := .starting }, outward 200, { outward 900 with state := .approach },
        { outward 200 with state := .easing }, known 0, pausedFrom .starting 200 49, pausedFrom .approach 900 0,
        pausedFrom .running 200 60, pausedFrom .running 700 60],
      (slideAt ch).quiet = true) ∧
    (pausedFrom .starting 200 49).travelled < (coach.cfg 4).creepIn ∧
    nearTarget (coach.cfg 4) (pausedFrom .running 200 60) = false ∧
    nearTarget (coach.cfg 4) (pausedFrom .running 700 60) = true := by decide

/-! ## The hypotheses of the statements: refused orders -/

/-- Every jack and the slide known; slot 3 a STANCE, slot 4 a PRESET, slot 5 INVALID, slot 6 BUSY, the others EMPTY. -/
def ready : State :=
  setDir 4 { state := .valid, kind := some .preset, count := 1, tag := [65#8] }
    (setDir 5 (DirEntry.plain .invalid) (setDir 6 (DirEntry.plain .busy) ((stored .stance).setChan 4 (known 100))))

/-- Six party orders; a hold over every assembly; a channel that a LIVE order of party 1 claims, and one it awaits. -/
def full : State := forAll (allOrders.take 6) (fun k s => s.setOrder k (travelOf .done .arrived)) ready
def covered : State := ready.setHold 20 { guestHold none with scope := 0xFF#8 }
def claimed (c : Chan) : State := (ready.setOrder 0 (travelOf .armed .wait)).setClaim c (some 0)
def awaited (c : Chan) : State := (ready.setOrder 0 (travelOf .armed .wait)).setSucc c (some 0)

/-- The conditions of the three last checks, for the channels of a list: parties 1 and 2 ask, without supersede and with. -/
def MeetsTables (c : Chan) (cs : List Chan) : Prop :=
    (full.ordering = true ∧ ¬PartySlotFree full) ∧
    ((claimed c).ordering = true ∧ PartySlotFree (claimed c) ∧ ClaimedByOthers (claimed c) 1#8 false cs ∧
      ClaimedByOthers (claimed c) 2#8 true cs) ∧
    ((awaited c).ordering = true ∧ PartySlotFree (awaited c) ∧ ClaimedByOthers (awaited c) 1#8 false cs ∧
      ClaimedByOthers (awaited c) 2#8 true cs) ∧
    (covered.ordering = true ∧ PartySlotFree covered ∧ ¬ClaimedByOthers covered 1#8 false cs)

theorem meetsTables {c : Chan} {cs : List Chan} (h : c ∈ cs) : MeetsTables c cs := by
  have hf : ¬∃ k : OrderSlot, k.val < 6 ∧ full.order k = none := by decide
  have ho : full.ordering = true ∧ covered.ordering = true ∧
      ∀ c, (claimed c).ordering = true ∧ (awaited c).ordering = true := by decide
  have hc : ∀ c : Chan, (claimed c).claims[c] = some 0 ∧ (claimed c).order 1 = none ∧
      (awaited c).succs[c] = some 0 ∧ (awaited c).order 1 = none := by decide
  have hn : ∀ k : OrderSlot, covered.order k = none := by decide
  have hl : (travelOf .armed .wait).state.live = true ∧ (travelOf .armed .wait).owner ≠ .party (2#8 : Byte).toNat := by
    decide
  exact ⟨⟨ho.1, hf⟩,
    ⟨(ho.2.2 c).1, ⟨1, by decide, (hc c).2.1⟩, ⟨c, h, 0, _, rfl, hl.1, .inl (hc c).1, .inl rfl⟩,
      ⟨c, h, 0, _, rfl, hl.1, .inl (hc c).1, .inr hl.2⟩⟩,
    ⟨(ho.2.2 c).2, ⟨1, by decide, (hc c).2.2.2⟩, ⟨c, h, 0, _, rfl, hl.1, .inr (hc c).2.2.1, .inl rfl⟩,
      ⟨c, h, 0, _, rfl, hl.1, .inr (hc c).2.2.1, .inr hl.2⟩⟩,
    ⟨ho.2.1, ⟨0, by decide, hn 0⟩, fun ⟨_, _, k, _, e, _⟩ => by rw [hn k] at e; cases e⟩⟩

/-- Each field of a TRAVEL out of its range; a target past the span, an assembly that does not travel, a position lost, and
the last checks. -/
theorem test_meets_TravelRefusals :
    (ready.ordering = true ∧ formOrderTravel [0#8, 0#8, 0#8, 0#8] = true ∧ BitVec.twoPow 8 (1 : Asm).val = 2#8 ∧
      ∀ x ∈ [[3#8, 0#8, 0#8, 0#8], [0#8, 3#8, 0#8, 0#8], [0#8, 0#8, 2#8, 0#8], [0#8, 0#8, 0#8, 2#8]],
        formOrderTravel [2#8, at8 x 0, 0#8, 0#8, at8 x 1, at8 x 2, at8 x 3] = true ∧
        travelArgs [2#8, at8 x 0, 0#8, 0#8, at8 x 1, at8 x 2, at8 x 3] = none ∧
        (3 ≤ (at8 x 0).toNat ∨ 3 ≤ (at8 x 1).toNat ∨ 2 ≤ (at8 x 2).toNat ∨ 2 ≤ (at8 x 3).toNat)) ∧
    (travelArgs (travelBytes 2#8 0xE9#8 3#8) = some ([{ asm := 1, target := .at 1001 }], .creep, .armed, false) ∧
      (ready.asmCfg 1).channels = [4] ∧ (ready.cfg 4).span < 1001) ∧
    (travelArgs [1#8, 0#8, 0#8, 0#8, 0#8, 0#8, 0#8] = some ([{ asm := 0, target := .inn }], .creep, .now, false) ∧
      (ready.asmCfg 0).kind = .stance) ∧
    (travelArgs (travelBytes 2#8 5#8 0#8) = some ([{ asm := 1, target := .at 5 }], .creep, .armed, false) ∧
      (coach.chan 4).positionKnown = false ∧ (ready.chan 4).positionKnown = true ∧ (ready.asmCfg 1).kind = .slide ∧
      ready.maskMembers 2#8 = [4] ∧ ready.targetFor [{ asm := 1, target := .at 5 }] 4 = some (.at 5) ∧
      (OrderTarget.at 5).direction (covered.chan 4).position = some .dirIn ∧ covered.blocked 4 .dirIn = true) :=
  ⟨by decide, by decide, by decide, by decide⟩

theorem test_meets_RefusedByTables : MeetsTables 4 [4] ∧ MeetsTables 0 [0, 1, 2, 3] :=
  ⟨meetsTables (by decide), meetsTables (by decide)⟩

theorem test_meets_JogLevelStowRefusals :
    (12 ≤ (12#8 : Byte).toNat ∧ sx16 0#8 0#8 = 0 ∧ 2000 < (sx16 0xD1#8 7#8).natAbs ∧ 2000 < (sx16 0x2F#8 0xF8#8).natAbs ∧
      2 ≤ (2#8 : Byte).toNat ∧ sx16 0x30#8 0xF8#8 ≠ 0 ∧ (sx16 0x30#8 0xF8#8).natAbs ≤ 2000) ∧
    (ready.asmOf 8 = none ∧ ready.asmOf 4 = some 1 ∧ covered.blocked 4 .dirOut = true ∧ covered.blocked 4 .dirIn = true) ∧
    (∀ a : Asm, (({ coach with setup := Setup.default } : State).asmCfg a).kind ≠ .stance) ∧
    ({ coach with setup := Setup.default } : State).ordering = true ∧
    (coach.stanceAsm = some 0 ∧ (0 : Chan) ∈ (coach.asmCfg 0).channels ∧ (coach.chan 0).positionKnown = false) ∧
    (ready.stanceAsm = some 0 ∧ ∀ c ∈ (ready.asmCfg 0).channels, (ready.chan c).positionKnown = true ∧
      covered.blocked c .dirOut = true ∧ covered.blocked c .dirIn = true) := by decide

theorem test_meets_RecallRefusals :
    (32 ≤ (32#8 : Byte).toNat ∧ 3 ≤ (3#8 : Byte).toNat ∧ 2 ≤ (2#8 : Byte).toNat ∧ (0x10#8 : Byte) ≠ 0#8) ∧
    ((0x10#8 : Byte).getLsbD (4 : Asm).val = true ∧ (ready.asmCfg 4).kind = .none) ∧
    (∀ a : Asm, ((1#8 : Byte).getLsbD a.val = true → (ready.asmCfg a).kind = .stance) ∧
      ((2#8 : Byte).getLsbD a.val = true → (ready.asmCfg a).kind = .slide)) ∧
    ([3, 4, 5, 6, 7].map fun p : ProfileSlot =>
        ((ready.store.directory[p]).state, (ready.store.directory[p]).kind)) =
      [(.valid, some .stance), (.valid, some .preset), (.invalid, none), (.busy, none), (.empty, none)] ∧
    ready.maskMembers 1#8 = [0, 1, 2, 3] ∧ ready.maskMembers 2#8 = [4] ∧
    (let s := ready.setChan 3 Channel.reset; s.ordering = true ∧ (s.chan 3).positionKnown = false) := by decide

/-! ## The hypotheses of the statements: supersede, handover, amendment -/

/-- A target's bytes in a TRAVEL or an AMEND: IN, OUT and AT. -/
theorem test_targets :
    orderTargetOf 0#8 (un16 0#8 0#8) = some .inn ∧ orderTargetOf 1#8 (un16 0#8 0#8) = some .out ∧
    orderTargetOf 2#8 (un16 200#8 0#8) = some (.at 200) ∧ orderTargetOf 2#8 (un16 201#8 0#8) = some (.at 201) ∧
    orderTargetOf 2#8 (un16 199#8 0#8) = some (.at 199) ∧ orderTargetOf 2#8 (un16 0xE8#8 3#8) = some (.at 1000) := by decide

/-- An ARMED order, a RUNNING one that the slide turns back from, and one whose channel eases already. -/
theorem test_meets_Supersedes :
    (∀ s ∈ [ordered (travelOf .armed .wait) (known 200), travelling,
        ordered (travelOf .running .moving) { outward 200 with state := .easing }],
      s.quiet = true ∧ s.ordering = true ∧ s.travels 1 = true ∧ (s.asmCfg 1).channels = [4] ∧ s.asmOf 4 = some 1 ∧
      s.targetInSpan 1 .inn = true ∧ s.targetHomed 1 .inn = true ∧
      OrderTarget.inn.direction (s.chan 4).position = some .dirIn ∧ s.blocked 4 .dirIn = false ∧
      OrderTarget.out.direction (s.chan 4).position = some .dirOut ∧ s.blocked 4 .dirOut = false ∧
      s.freePartySlot = some 1 ∧ (s.order 0).map (fun o => (o.owner, o.kind, o.entries.map (·.chan))) =
        some (.party 1, .travel, [4]) ∧ s.claims[(4 : Chan)] = some 0 ∧ s.succs[(4 : Chan)] = none) ∧
    (let s := ordered (travelOf .armed .wait) (known 200);
      s.drivable 4 = true ∧ alreadyThere (s.cfg 4) (s.chan 4) .endIn = false) ∧
    ((travelling.chan 4).state.pursuing = true ∧ liesAhead (travelling.chan 4) .endIn = false) ∧
    ({ outward 200 with state := .easing } : Channel).state.pursuing = false := by decide

/-- A new target further on, and one at the present position. -/
theorem test_meets_HandsOver :
    (travelling.quiet = true ∧ travelling.ordering = true ∧ travelling.travels 1 = true ∧
      travelling.blocked 4 .dirOut = false ∧ travelling.freePartySlot = some 1 ∧
      travelling.order 0 = some (travelOf .running .moving) ∧ (travelOf .running .moving).owner = .party 1 ∧
      travelling.claims[(4 : Chan)] = some 0 ∧ travelling.succs[(4 : Chan)] = none) ∧
    ∀ p ∈ [200, 201, 1000],
      travelling.targetInSpan 1 (.at p) = true ∧ travelling.targetHomed 1 (.at p) = true ∧
      liesAhead (travelling.chan 4) (.at p) = true ∧
      alreadyThere (travelling.cfg 4) (travelling.chan 4) (.at p) = decide (p = 200) := by decide

/-- The order that gives way to another on the slide. -/
def givingWay : Order := { travelOf .easing .moving with pending := some (.final .superseded (some .claimed)) }

/-- The order that awaits the slide, toward a position. -/
def awaiting (st : OrderState) : Order :=
  { travelOf st .wait with
    entries := [{ newEntry 4 with claim := .awaited, direction := some .dirIn, goal := some (.at 100) }] }

/-- The slide at rest, its report on its way, and its direction covered or not. -/
def passing (st : OrderState) (hold : Bool) : State :=
  let s := sent [.report (reportOf .halt (some 200) none)]
    (((ordered givingWay (known 200)).setOrder 1 (awaiting st)).setSucc 4 (some 1))
  if hold then s.setHold 20 (guestHold none) else s

theorem test_meets_AwaitedPasses :
    (∀ st ∈ [OrderState.running, .armed], ∀ hold : Bool,
      (passing st hold).quiet = true ∧ (passing st hold).order 0 = some givingWay ∧
      (passing st hold).order 1 = some (awaiting st) ∧ (passing st hold).claims[(4 : Chan)] = some 0 ∧
      (passing st hold).succs[(4 : Chan)] = some 1 ∧ (passing st hold).blocked 4 .dirIn = hold ∧
      (passing st hold).drivable 4 = true ∧ ((passing st hold).chan 4).positionKnown = true ∧
      alreadyThere ((passing st hold).cfg 4) ((passing st hold).chan 4) (.at 100) = false ∧
      (awaiting st).state = st ∧ (awaiting st).owner = .party 1) ∧
    (givingWay.state = .easing ∧ givingWay.pending = some (.final .superseded (some .claimed)) ∧
      OrderState.superseded.live = false ∧ givingWay.kind = .travel) := by decide

/-- The twin slide on its way, one channel at a place, the other at another; its order's entries in given states. -/
def twinOf (es : List EntryState) : Order :=
  { newOrder 1#8 .travel 0x08#8 .now false [6, 7] with
    state := .running, targets := [{ asm := 3, target := .out }],
    entries := (entriesFor [6, 7]).zipWith (fun e st =>
      { e with state := st, direction := some .dirOut, goal := some .endOut }) es }

def twinAt (o : Order) (x y : Channel) : State :=
  ((((coach.setChan 6 x).setChan 7 y).setOrder 0 o).setClaim 6 (some 0)).setClaim 7 (some 0)

theorem test_meets_AmendRefusals :
    (let o := { travelOf .running .moving with owner := .monitor };
      let s := (slideAt (outward 200)).setOrder 6 o
      s.ordering = true ∧ s.order 6 = some o ∧ (6 : OrderSlot).val = (6#8 : Byte).toNat % 8 ∧
      s.orders[(6 : OrderSlot)].gen = (6#8 : Byte).toNat / 8) ∧
    ((travelOf .running .moving).owner = .party 1 ∧ (2#8 : Byte).toNat ≠ 0 ∧ (2#8 : Byte).toNat ≠ 1 ∧
      (1#8 : Byte).toNat = 1) ∧
    ((ordered (armedJog 5) (known 100)).order 0 = some (armedJog 5) ∧ (armedJog 5).kind ≠ .travel) ∧
    (8 ≤ (8#8 : Byte).toNat ∧ 3 ≤ (3#8 : Byte).toNat) ∧
    ((travelOf .running .moving).mask.getLsbD (1 : Asm).val = true ∧
      (travelOf .running .moving).mask.getLsbD (2 : Asm).val = false ∧ (travelling.cfg 4).span < 1001) ∧
    (let s := ordered (travelOf .armed .wait) Channel.reset;
      s.ordering = true ∧ (s.asmCfg 1).channels = [4] ∧ (s.chan 4).positionKnown = false) ∧
    (let s := ordered (travelOf .easing .moving) (known 100);
      s.ordering = true ∧ s.order 0 = some (travelOf .easing .moving)) ∧
    (∀ es ∈ [[EntryState.wait, .arrived], [.moving, .halted], [.moving, .moving], [.arrived, .moving]],
      let s := twinAt (twinOf es) (outward 200) { outward 250 with direction := .dirIn }
      s.ordering = true ∧ s.order 0 = some (twinOf es) ∧ s.asmOf 6 = some 3 ∧ s.asmOf 7 = some 3 ∧
      (twinOf es).entries.map (fun e => (e.chan, e.state)) = [6, 7].zip es ∧
      (s.chan 6).state.pursuing = true ∧ liesAhead (s.chan 6) .endOut = true ∧ (s.chan 7).state.pursuing = true ∧
      liesAhead (s.chan 7) .endOut = false) ∧
    (let s := ordered (travelOf .running .moving) { outward 200 with state := .easing };
      s.ordering = true ∧ (s.chan 4).state.pursuing = false) := by decide

/-- An ARMED order with an ARRIVED entry; a RUNNING one amended ahead of its channel and at its place; a twin with one entry
that waits, and a PAUSED one. -/
theorem test_meets_AmendAccepted :
    (∀ es ∈ [EntryState.wait, .arrived],
      let s := ordered (travelOf .armed es) (known 200)
      s.ordering = true ∧ s.order 0 = some (travelOf .armed es) ∧ (travelOf .armed es).owner = .party 1) ∧
    (∀ p ∈ [200, 201, 1000],
      travelling.targetInSpan 1 (.at p) = true ∧ travelling.targetHomed 1 (.at p) = true ∧
      liesAhead (travelling.chan 4) (.at p) = true) ∧
    (let s := twinAt (twinOf [.wait, .moving]) (known 200) (pausedFrom .running 250 60);
      s.quiet = true ∧ s.ordering = true ∧ s.order 0 = some (twinOf [.wait, .moving]) ∧
      s.targetInSpan 3 (.at 300) = true ∧ s.targetHomed 3 (.at 300) = true ∧
      (twinOf [.wait, .moving]).mask.getLsbD (3 : Asm).val = true ∧ (s.chan 7).state.pursuing = true ∧
      liesAhead (s.chan 7) (.at 300) = true ∧ alreadyThere (s.cfg 7) (s.chan 7) (.at 300) = false) := by decide

/-! ## The hypotheses of the statements: images -/

/-- An image of a kind, with the tag A, residuals of -1500 and 1500 (0 for a PRESET), and entries. -/
def imageOf (kind : ProfileKind) (flags : Byte) (es : List (List Byte)) : List Byte :=
  ([if kind = .stance then 1#8 else 2#8, byte es.length, flags, 65#8] ++ List.replicate 11 0#8 ++
    (if kind = .stance then [0x24#8, 0xFA#8, 0xDC#8, 0x05#8] else List.replicate 4 0#8) ++ es.flatten ++
    List.replicate 64 0#8).take 64

/-- The four jacks, the last of them a given channel, at extensions of 100. -/
def jacksImage (last : Byte) (trim : Byte) : List Byte :=
  imageOf .stance trim [[0#8, 0#8, 100#8, 0#8], [1#8, 0#8, 100#8, 0#8], [2#8, 0#8, 100#8, 0#8], [last, 0#8, 100#8, 0#8]]

/-- The slide IN; the slide IN and AT 32767; the slide twice. -/
def slideIn : List Byte := imageOf .preset 0#8 [[1#8, 0#8, 0#8, 0#8]]
def slideAndAwning : List Byte := imageOf .preset 0#8 [[1#8, 0#8, 0#8, 0#8], [2#8, 2#8, 0xFF#8, 0x7F#8]]
def slideTwice : List Byte := imageOf .preset 0#8 [[1#8, 0#8, 0#8, 0#8], [1#8, 1#8, 0#8, 0#8]]

theorem fits_tag : ∀ j, 1 ≤ j → j < 12 → at8 (((65#8 : Byte) :: List.replicate 11 0#8)) j = 0#8 :=
  fun j a b => (by decide : ∀ j, j < 12 → 1 ≤ j → at8 (((65#8 : Byte) :: List.replicate 11 0#8)) j = 0#8) j b a

theorem test_fits : Clause.StagedFits slideIn .preset 1 ∧ Clause.StagedFits slideAndAwning .preset 2 ∧
    Clause.StagedFits slideTwice .preset 2 ∧ Clause.StagedFits (jacksImage 3#8 1#8) .stance 4 ∧
    Clause.StagedFits (jacksImage 4#8 0#8) .stance 4 :=
  ⟨⟨by decide, by decide, by decide, by decide, by decide, ⟨1, by decide, by decide, by decide, fits_tag⟩, by decide,
      by decide, by decide⟩,
    ⟨by decide, by decide, by decide, by decide, by decide, ⟨1, by decide, by decide, by decide, fits_tag⟩, by decide,
      by decide, by decide⟩,
    ⟨by decide, by decide, by decide, by decide, by decide, ⟨1, by decide, by decide, by decide, fits_tag⟩, by decide,
      by decide, by decide⟩,
    ⟨by decide, by decide, by decide, by decide, by decide, ⟨1, by decide, by decide, by decide, fits_tag⟩, by decide,
      by decide, by decide⟩,
    ⟨by decide, by decide, by decide, by decide, by decide, ⟨1, by decide, by decide, by decide, fits_tag⟩, by decide,
      by decide, by decide⟩⟩

/-- The coach with an image staged. -/
def staged (bs : List Byte) : State := { coach with store := { coach.store with staging := bs } }

/-- The blank buffer, which fits no kind; a PRESET of different assemblies and one of one assembly twice; a STANCE of the
stance's jacks and one of others. -/
theorem test_meets_StagedImage :
    (∀ kind n, ¬Clause.StagedFits coach.store.staging kind n) ∧
    (∀ bs ∈ [coach.store.staging, slideIn, slideAndAwning, slideTwice, jacksImage 3#8 1#8, jacksImage 4#8 0#8],
      (staged bs).taking = true ∧ (staged bs).store.state = .idle ∧ (staged bs).pinned 31 = 0 ∧
      (staged bs).store.staging.length = 64) ∧
    (at8 slideTwice (19 + 4 * 0) = at8 slideTwice (19 + 4 * 1) ∧
      at8 slideAndAwning (19 + 4 * 0) ≠ at8 slideAndAwning (19 + 4 * 1)) ∧
    (coach.stanceAsm = some 0 ∧ (coach.asmCfg 0).channels = [0, 1, 2, 3] ∧
      (∀ j, j < 4 → at8 (jacksImage 3#8 1#8) (19 + 4 * j) = byte j) ∧
      ∀ j, j < 4 → at8 (jacksImage 4#8 0#8) (19 + 4 * j) ≠ byte 3) := by
  refine ⟨fun kind n h => ?_, by decide, by decide, by decide⟩
  have h := h.1
  cases kind <;> exact absurd h (by decide)

/-- The coach with its jacks in contact but the last, its stance in a state. -/
def standing (st : Stance) (last : Option Nat) (r : Int) : State :=
  let s := (forAll [0, 1, 2] (fun c s => s.setChan c { known 500 with contactPos := some 400 }) coach).setChan 3
    { known 500 with contactPos := last }
  { s with lev := { s.lev with stance := st, residualPitch := r, residualRoll := -r } }

/-- The coach with its slide BETWEEN and its awning AT_OUT. -/
def placed : State :=
  ((slideAt (known 300)).setAsm 1 { AsmLive.reset with summary := .between }).setAsm 2
    { AsmLive.reset with summary := .atOut, settled := true }

theorem test_meets_CapturedImage :
    (((65#8 : Byte) :: List.replicate 11 0#8).length = 12 ∧ (3#8 : Byte) ≠ 1#8 ∧ (3#8 : Byte) ≠ 2#8 ∧
      2 ≤ (2#8 : Byte).toNat ∧ at8 (List.replicate 12 (0#8 : Byte)) 0 = 0#8) ∧
    (∀ s ∈ [coach, standing .set (some 500) 20, standing .set none 20, placed, awningIn], s.taking = true ∧
      s.store.state = .idle ∧ s.pinned 31 = 0 ∧ s.stanceAsm = some 0 ∧ (s.asmCfg 0).channels = [0, 1, 2, 3]) ∧
    (coach.lev.stance ≠ .set ∧ (standing .set none 20).lev.stance = .set ∧
      ((standing .set none 20).chan 3).contactPos = none) ∧
    (∀ c ∈ [(0 : Chan), 1, 2, 3], ((standing .set (some 500) 20).chan c).positionKnown = true ∧
      ((standing .set (some 500) 20).chan c).contactPos ≠ none) ∧
    ((2#8 : Byte).getLsbD (1 : Asm).val = true ∧ (coach.asm 1).summary = .unknown ∧
      (1#8 : Byte).getLsbD (0 : Asm).val = true ∧ (coach.asmCfg 0).kind = .stance) ∧
    (∀ a : Asm, (6#8 : Byte).getLsbD a.val = true → ((placed.asmCfg a).kind = .slide ∨ (placed.asmCfg a).kind = .awning) ∧
      (placed.asm a).summary ≠ .unknown ∧ (placed.asmCfg a).channels ≠ []) ∧
    (awningIn.asm 2).summary = .atIn :=
  ⟨by decide, by decide, by decide, by decide, by decide, by decide, by decide⟩

/-- A RECALL of slot 3 that waits for its read. -/
def recallOf (kind : ProfileKind) (mask : Byte) (m : StartMode) (cs : List Chan) : Order :=
  { newOrder 1#8 .recall mask m false cs with
    state := .loading, profileSlot := some 3, profileKind := some kind, profile := .ramped, entries := entriesFor cs }

/-- That order with its claims, its image in the array, and its read at the head of the queue. -/
def recalled (o : Order) (bs : List Byte) (s : State) : State :=
  let s := forAll (o.entries.map (·.chan)) (fun c s => s.setClaim c (some 0)) (s.setOrder 0 o)
  reading { s with nv := { s.nv with mem := Memory.program [] 0 192 (sealImage bs) } }

theorem slotBytes_recalled (o : Order) (bs : List Byte) (s : State) (h : (sealImage bs).length = 64) :
    (recalled o bs s).slotBytes 3 = sealImage bs := by
  have e : (recalled o bs s).slotBytes 3 = Memory.readList (Memory.program [] 0 192 (sealImage bs)) 192 64 := rfl
  rw [e]
  refine List.ext_getElem? fun i => ?_
  by_cases hi : i < 64
  · rw [readList_get _ _ _ hi, read_program_inside (m := []) rfl 0 (fun _ _ => rfl) (by rw [h]; exact hi)]
    exact (List.getElem?_eq_getElem (by rw [h]; exact hi)).symm
  · rw [List.getElem?_eq_none (by rw [readList_length]; omega), List.getElem?_eq_none (by rw [h]; omega)]

/-- An image that stands in the slot passes its CRC and reads as what was sealed. -/
theorem recalled_reads : ∀ bs ∈ [slideIn, slideAndAwning, slideTwice, jacksImage 3#8 1#8, jacksImage 4#8 0#8],
    ∀ (o : Order) (s : State), imageCrcOk ((recalled o bs s).slotBytes 3) = true ∧
      readImage ((recalled o bs s).slotBytes 3) = readImage bs := by
  have h : ∀ bs ∈ [slideIn, slideAndAwning, slideTwice, jacksImage 3#8 1#8, jacksImage 4#8 0#8],
      (sealImage bs).length = 64 ∧ imageCrcOk (sealImage bs) = true ∧ readImage (sealImage bs) = readImage bs := by
    decide +kernel
  intro bs hb o s
  rw [slotBytes_recalled o bs s (h bs hb).1]
  exact (h bs hb).2

/-- An operation halted for the read. -/
def halted (s : State) : State := { s with store := { s.store with
  state := .suspended, halt := some 0,
  op := some { kind := .erase, place := .slot 5, step := .erase 0, remaining := 100, image := [], guard := 0,
               haltedFrom := .erasing } } }

/-- Served by an IDLE store and by a halt; ARMED and NOW; the channel free and blocked; an image that matches and images
that do not: another assembly, an assembly missing. -/
theorem test_meets_ServedPreset :
    (∀ m ∈ [StartMode.armed, .now], ∀ hold : Bool,
      let s := recalled (recallOf .preset 2#8 m [4]) slideIn (if hold then (slideAt (known 300)).setHold 20 (guestHold none)
        else slideAt (known 300))
      s.quiet = true ∧ (halted s).quiet = true ∧ s.store.state = .idle ∧ (halted s).store.state = .suspended ∧
      (halted s).store.op ≠ none ∧ s.findOrder 0#8 = some 0 ∧ s.order 0 = some (recallOf .preset 2#8 m [4]) ∧
      s.claims[(4 : Chan)] = some 0 ∧ s.blocked 4 .dirIn = hold ∧ s.drivable 4 = true ∧
      OrderTarget.inn.direction (s.chan 4).position = some .dirIn ∧ alreadyThere (s.cfg 4) (s.chan 4) .endIn = false) ∧
    (readImage slideIn = some (.preset [{ asm := 1, target := .inn }]) ∧
      readImage slideAndAwning = some (.preset [{ asm := 1, target := .inn }, { asm := 2, target := .at 32767 }]) ∧
      readImage slideTwice = some (.preset [{ asm := 1, target := .inn }, { asm := 1, target := .out }])) ∧
    (∀ a : Asm, (2#8 : Byte).getLsbD a.val = true ↔ a = 1) ∧ (coach.asmCfg 1).kind ≠ .stance ∧
    ((recallOf .preset 2#8 .now [4]).entries.map fun e => (e.chan, e.claim)) = [(4, .held)] :=
  ⟨by decide, by decide, by decide, by decide, by decide⟩

theorem test_meets_ServedStance :
    (∀ m ∈ [StartMode.armed, .now],
      let s := recalled (recallOf .stance 1#8 m [0, 1, 2, 3]) (jacksImage 3#8 1#8) jacksKnown
      s.quiet = true ∧ (halted s).quiet = true ∧ s.findOrder 0#8 = some 0 ∧
      s.order 0 = some (recallOf .stance 1#8 m [0, 1, 2, 3]) ∧ s.stanceAsm = some 0 ∧
      (recallOf .stance 1#8 m [0, 1, 2, 3]).entries.length = 4 ∧
      ∀ e ∈ (recallOf .stance 1#8 m [0, 1, 2, 3]).entries, e.claim = .held ∧ s.asmOf e.chan = some 0 ∧
        s.drivable e.chan = true ∧ (s.chan e.chan).auxActive = false ∧ (s.chan e.chan).positionKnown = true ∧
        s.blocked e.chan .dirOut = false ∧ alreadyThere (s.cfg e.chan) (s.chan e.chan) .endOut = false) ∧
    (readImage (jacksImage 3#8 1#8) = some (.stance { extensions := [(0, 100), (1, 100), (2, 100), (3, 100)], trim := true }) ∧
      readImage (jacksImage 4#8 0#8) = some (.stance { extensions := [(0, 100), (1, 100), (2, 100), (4, 100)], trim := false })) :=
  ⟨by decide, by decide⟩

/-! ## The hypotheses of the statements: twins -/

/-- Both channels known and together, apart by skew_trim, one of them unknown. -/
theorem test_meets_PairEngages :
    (∀ y ∈ [known 100, known 200, Channel.reset],
      let s := (coach.setChan 6 (known 100)).setChan 7 y
      s.quiet = true ∧ s.ordering = true ∧ s.travels 3 = true ∧ (s.asmCfg 3).channels = [6, 7] ∧ s.asmOf 6 = some 3 ∧
      s.asmOf 7 = some 3 ∧ s.freePartySlot = some 0 ∧ s.unclaimed [6, 7] = true ∧
      ∀ x ∈ [6, 7], s.drivable x = true ∧ s.blocked x .dirOut = false ∧ s.blocked x .dirIn = false ∧
        alreadyThere (s.cfg x) (s.chan x) .endOut = false ∧ alreadyThere (s.cfg x) (s.chan x) .endIn = false) ∧
    ((coach.asmCfg 3).skewTrim ≤ (coach.asmCfg 3).skewFault ∧
      (Clause.skewOf (known 100) (known 200)).natAbs ≤ (coach.asmCfg 3).skewTrim) := by decide

/-- An engaged twin, with a side paused or none. -/
def pairOf (paused leader : Option Side) (x y : Channel) : State :=
  (twinAt (twinOf [.moving, .moving]) x y).setAsm 3
    { AsmLive.reset with engaged := true, basis := .position, leader := leader, paused := paused }

theorem engaged_pairOf (paused leader : Option Side) (x y : Channel) :
    Clause.Engaged (pairOf paused leader x y) 3 6 7 0 := by
  refine ⟨.inl rfl, rfl, by decide, ⟨rfl, rfl⟩, ⟨rfl, rfl⟩, rfl, ?_⟩
  intro j o h _ hs
  have g : ∀ j : OrderSlot, (((coach.setOrder 0 (twinOf [.moving, .moving])).order j).map (·.staged)) ≠ some true := by
    decide
  have h : (coach.setOrder 0 (twinOf [.moving, .moving])).order j = some o := h
  exact absurd (by rw [h]; exact congrArg some hs) (g j)

/-- The first channel reaches its OUT end while the second is PAUSED; the last channel that pursues is cut. -/
theorem test_meets_PairEnds :
    (let s := pairOf (some .second) (some .second) (outward 950) (pausedFrom .running 980 60);
      s.quiet = true ∧ (s.asm 3).paused = some .second ∧ (s.chan 7).state = .paused ∧ (s.chan 6).state.driving = true ∧
      (s.chan 6).direction = .dirOut ∧ (s.chan 6).inActive = false ∧ (s.chan 6).outActive = false ∧
      (s.chan 6).positionKnown = true ∧ (s.chan 7).positionKnown = true ∧
      ((after (.outBecomesActive 6) s).map fun t => ((t.asm 3).skew, (t.asm 3).paused, t.inFlight.contains (.resume 7))) =
        some (20, none, true)) ∧
    (∀ y ∈ [known 200, { outward 200 with state := .easing }],
      let s := pairOf none none (outward 210) y
      s.quiet = true ∧ (s.chan 6).state ≠ .idle ∧ (s.chan 7).state.pursuing = false ∧
      ((after (.cut 6) s).map fun t => (t.asm 3).engaged) = some false) := by decide

/-- What a count of the first channel leaves: the pairing state, and the messages sent. -/
def measured (s : State) : Option (Bool × Int × Option Side × Option Side × List Msg) :=
  (after (.count 6) s).map fun t =>
    ((t.asm 3).engaged, (t.asm 3).skew, (t.asm 3).leader, (t.asm 3).paused, t.inFlight)

/-- In step; apart by more than skew_trim, and by more than skew_fault; a paused side whose lead stands, has come to half of
skew_trim, has gone over to the other, and whose other side has arrived. -/
theorem test_meets_PairIsMeasured :
    measured (pairOf none none (outward 199) (outward 200)) = some (true, 0, none, none, []) ∧
    measured (pairOf none none (outward 300) (outward 200)) = some (true, 101, some .first, some .first, [.pause 6]) ∧
    (measured (pairOf none none (outward 600) (outward 200))).map (fun x => (x.1, x.2.1, x.2.2.1, x.2.2.2.1)) =
      some (false, 401, none, none) ∧
    measured (pairOf (some .second) (some .second) (outward 200) (pausedFrom .running 300 60)) =
      some (true, -99, some .second, some .second, []) ∧
    measured (pairOf (some .second) (some .second) (outward 249) (pausedFrom .running 300 60)) =
      some (true, -50, some .second, none, [.resume 7]) ∧
    measured (pairOf (some .second) (some .second) (outward 450) (pausedFrom .running 300 60)) =
      some (true, 151, some .first, some .first, [.resume 7, .pause 6]) ∧
    ((after (.count 7) (pairOf (some .second) (some .second) { known 300 with lastReport := some .arrival }
        (pausedFrom .running 500 60))).map fun t => ((t.asm 3).paused, t.inFlight)) = some (none, [.resume 7]) ∧
    ∀ s ∈ [pairOf none none (outward 300) (outward 200), pairOf (some .second) none (outward 1) (pausedFrom .running 300 60)],
      s.quiet = true ∧ (s.chan 6).state ≠ .idle ∧ (s.chan 7).state ≠ .idle :=
  ⟨by decide, by decide, by decide, by decide, by decide +kernel, by decide, by decide, by decide⟩

/-! ## The hypotheses of the statements: reports, holds of the monitor, wind -/

theorem test_meets_Reports :
    (∀ kind ∈ [ReportKind.arrival, .halt, .fault .stall],
      let s := sent [.report (reportOf kind none none)] (ordered (travelOf .running .moving) (known 1000))
      s.quiet = true ∧ s.order 0 = some (travelOf .running .moving) ∧
      s.inFlight = .report (reportOf kind none none) :: [] ∧ s.succs[(4 : Chan)] = none ∧
      s.claims[(4 : Chan)] = some 0) ∧
    (let o := travelOf .running .moving;
      o.kind = .travel ∧ o.entries.map (fun e => (e.chan, e.contact)) = [(4, false)] ∧ o.pending ≠ some .toBlocked) ∧
    (let o := { travelOf .easing .moving with pending := some (.final .cancelled none) };
      let s := sent [.report (reportOf .halt (some 300) none)] (ordered o (known 300))
      s.quiet = true ∧ s.order 0 = some o ∧ o.state = .easing ∧ o.pending = some (.final .cancelled none) ∧
      OrderState.cancelled.live = false) ∧
    (let s := sent [.skew 1 0#8] travelling;
      s.quiet = true ∧ s.inFlight = .skew 1 0#8 :: [] ∧ (travelOf .running .moving).anyMoving = true ∧
      (travelOf .running .arrived).anyMoving = false) ∧
    (let n : StopNotice := { order := 0#8, hold := 20#8, owner := .party 2, style := .cut, commanded := [] };
      (sent [.stop n] travelling).quiet = true ∧ n.order = 0#8 ∧ travelling.allIdle (travelOf .running .moving) = false ∧
      (ordered (travelOf .running .moving) (known 300)).allIdle (travelOf .running .moving) = true) ∧
    (let o := { travelOf .running .moving with owner := .monitor };
      let s := ((slideAt (outward 200)).setOrder 6 o).setClaim 4 (some 6)
      s.quiet = true ∧ s.order 6 = some o ∧ o.anyMoving = true ∧ (6 : OrderSlot).val = (6#8 : Byte).toNat % 8) ∧
    coach.inFlight = [] := by decide

/-- The coach with the parking brake applied, IGN off. -/
def parked (ign pbrk : Bool) : State :=
  { coach with mon := { coach.mon with ign := { active := ign, wait := none }, pbrk := { active := pbrk, wait := none } } }

theorem test_meets_RoadAndEstop :
    ((parked false true).quiet = true ∧ (parked false true).mon.ign.active = false ∧
      (parked false true).mon.pbrk.active = true ∧ (parked false true).monitorHold .road none = none ∧
      (parked false true).freeHoldSlot monitorHolds = some 0) ∧
    (let s := evalRoad (parked true true);
      Inv s ∧ s.quiet = true ∧ s.mon.ign.active = true ∧ s.mon.pbrk.active = true ∧
      (s.hold 0).map (fun x => (x.cause, x.owner)) = some (.road, .monitor)) ∧
    (let s := evalRoad (parked false false);
      Inv s ∧ s.quiet = true ∧ s.mon.ign.active = false ∧ s.mon.pbrk.active = false ∧
      (s.hold 0).map (fun x => (x.cause, x.owner)) = some (.road, .monitor)) ∧
    (coach.mon.estp.active = false ∧ coach.monitorHold .estop none = none ∧ coach.freeHoldSlot monitorHolds = some 0) ∧
    (let s := estopped true coach;
      Inv s ∧ s.quiet = true ∧ s.mon.estp.active = true ∧
      (s.hold 0).map (fun x => (x.cause, x.owner, x.state)) = some (.estop, .monitor, .active)) ∧
    (let s := estopped false (estopped true coach);
      Inv s ∧ s.quiet = true ∧ s.mon.estp.active = false ∧
      (s.hold 0).map (fun x => (x.cause, x.owner, x.state, x.scope)) =
        some (.estop, .monitor, .pendingClear, 0xFF#8)) :=
  ⟨by decide, ⟨(evaluated_evalRoad _).ran.inv (inv_mon _) (by decide), by decide⟩,
    ⟨(evaluated_evalRoad _).ran.inv (inv_mon _) (by decide), by decide⟩, by decide,
    ⟨inv_estopped inv_coach (by decide), by decide⟩,
    ⟨inv_estopped (inv_estopped inv_coach (by decide)) (by decide), by decide⟩⟩

/-- The coach with a LOWV delay state. -/
def lowvAt (d : LowvDelay) (active : Bool) : State :=
  { coach with mon := { coach.mon with lowv := { active := active, wait := none }, lowvDelay := d } }

theorem test_meets_LowvDelays :
    ∀ x ∈ [(LowvDelay.clear, false), (.onDelay 0, true), (.held, true), (.offDelay 0, false)],
      Inv (lowvAt x.1 x.2) ∧ (lowvAt x.1 x.2).quiet = true ∧ (lowvAt x.1 x.2).mon.lowvDelay = x.1 ∧
      (lowvAt x.1 x.2).mon.lowv.active = x.2 := by
  have h : ∀ x ∈ [(LowvDelay.clear, false), (.onDelay 0, true), (.held, true), (.offDelay 0, false)],
      (lowvAt x.1 x.2).quiet = true ∧ (lowvAt x.1 x.2).mon.lowvDelay = x.1 ∧ (lowvAt x.1 x.2).mon.lowv.active = x.2 := by
    decide
  exact fun x hx => ⟨inv_mon _, h x hx⟩

/-- LOWV_SEEN at the on-delay, and not at the off-delay. -/
theorem test_lowvSeen :
    (after .lowvOnDelayExpiry (lowvAt (.onDelay 0) true)).map (·.flag .lowvSeen) = some true ∧
    (after .lowvOffDelayExpiry (lowvAt (.offDelay 0) false)).map (·.flag .lowvSeen) = some false := by decide +kernel

/-- The coach at the end of a wind window, after some windows at or above the retract speed. -/
def windy (count run : Nat) : State :=
  { coach with mon := { coach.mon with counter := count, window := some 0, run := run } }

theorem test_meets_WindLogic :
    (Inv (windy 45 2) ∧ (windy 45 2).quiet = true ∧ (windy 45 2).mon.window ≠ none ∧
      windSpeed (windy 45 2).setup.wind 45 = 45 ∧ (windy 45 2).setup.wind.retract ≤ 45 ∧
      (windy 45 2).setup.wind.tripWindows ≤ 2 + 1 ∧ (windy 45 2).windScope ≠ 0#8 ∧ (windy 45 2).awningsOut = [2]) ∧
    ((windy 45 1).quiet = true ∧ 1 + 1 < (windy 45 1).setup.wind.tripWindows) ∧
    ((windy 4095 0).quiet = true ∧ windSpeed (windy 4095 0).setup.wind 4095 = 255) ∧
    (coach.mon.window = none ∧ coach.mon.calm = none) ∧
    ({ awningIn with mon := (windy 45 2).mon } : State).awningsOut = [] ∧
    (let s := ((windy 45 2).setOrder 0 { travelOf .running .moving with mask := 4#8 }).setClaim 5 (some 0);
      s.quiet = true ∧ s.awningsOut = [2] ∧ s.windOrdered 2 = false ∧ s.order 6 = none ∧
      (5 : Chan) ∈ (s.asmCfg 2).channels ∧ s.claims[(5 : Chan)] = some 0) ∧
    (let m := { coach.mon with tripped := true, calm := some 0 };
      Inv { coach with mon := m } ∧ ({ coach with mon := m } : State).quiet = true ∧ m.calm ≠ none) :=
  ⟨⟨inv_mon _, by decide⟩, by decide, by decide, by decide, by decide, by decide, ⟨inv_mon _, by decide⟩⟩

/-! ## The hypotheses of the statements: wind orders -/

/-- A wind retraction order of the awning, BLOCKED, in slot 6, and a hold of party 2 about to expire. -/
def windOrder : Order :=
  { newOrder 0#8 .travel 4#8 .now false [5] with
    owner := .monitor, state := .blocked, profile := .ramped, targets := [{ asm := 2, target := .inn }],
    entries := [{ newEntry 5 with direction := some .dirIn, goal := some .endIn }] }

def windBlocked (s : State) : State := (s.setHold 20 (guestHold (some 0))).setOrder 6 windOrder

/-- Its channel claimed by another order, its coverage BLOCKED still, its awning AT_IN, and its channel free. -/
theorem test_meets_WindOrderReconsidered :
    (∀ s ∈ [coach, coach.setClaim 5 (some 0), coach.setHold 21 { guestHold none with scope := 4#8 }, awningIn,
        coach.setChan 5 (known 300)],
      (windBlocked s).taking = true ∧ (windBlocked s).hold 20 = some (guestHold (some 0)) ∧
      (windBlocked s).order 6 = some windOrder ∧
      (∀ j : OrderSlot, ((windBlocked s).order j).map (·.state) = some .blocked → j = 6) ∧
      (windBlocked s).asmOf 5 = some 2 ∧ ((windBlocked s).asmCfg 2).channels = [5]) ∧
    (windOrder.owner = .monitor ∧ windOrder.kind = .travel ∧ (guestHold (some 0)).expiry.isSome = true) ∧
    ((windBlocked coach).claims[(5 : Chan)] = none ∧ (windBlocked coach).drivable 5 = true ∧
      (∀ j : HoldSlot, j ≠ 20 → ((windBlocked coach).hold j).isNone = true) ∧ (windBlocked coach).reconsider = false ∧
      alreadyThere (coach.cfg 5) (coach.chan 5) .endIn = false ∧ (coach.asm 2).settled = false ∧
      (windBlocked awningIn).claims[(5 : Chan)] = none ∧
      (awningIn.asm 2).settled = true ∧ (awningIn.asm 2).summary = .atIn) := by decide

theorem test_meets_WindOrderStartsAtOnce :
    Inv (windy 45 2) ∧ (windy 45 2).quiet = true ∧ (windy 45 2).mon.window ≠ none ∧
    (windy 45 2).setup.wind.tripWindows ≤ 2 + 1 ∧ (windy 45 2).setup.wind.retract ≤ min 255 (45 * 16 / 16) ∧
    (windy 45 2).awningsOut = [2] ∧ (windy 45 2).windOrdered 2 = false ∧ (windy 45 2).order 6 = none ∧
    ((windy 45 2).asmCfg 2).channels = [5] ∧ (windy 45 2).asmOf 5 = some 2 ∧ (windy 45 2).claims[(5 : Chan)] = none ∧
    (windy 45 2).blocked 5 .dirIn = false ∧ (windy 45 2).drivable 5 = true ∧
    alreadyThere ((windy 45 2).cfg 5) ((windy 45 2).chan 5) .endIn = false := ⟨inv_mon _, by decide⟩

/-- The wind order on its way to BLOCKED, its last report just in, and RUNNING with nothing in motion, its notice just in. -/
def windReturning (s : State) : State :=
  let o := { windOrder with
    state := .easing, pending := some .toBlocked, entries := windOrder.entries.map fun e => { e with state := .moving } }
  sent [.report { chan := 5, kind := .halt, order := 6#8, position := none, atEnd := none }]
    ((s.setOrder 6 o).setClaim 5 (some 6))

/-- Covered still; home; neither; and with a channel that another order claims, at a stop notice. The order stands in a
monitor slot. -/
theorem test_meets_WindOrderReturns :
    (∀ s ∈ [coach.setHold 21 { guestHold none with scope := 4#8 }, awningIn, coach],
      (windReturning s).quiet = true ∧ (windReturning s).succs[(5 : Chan)] = none ∧
      (windReturning s).orders[(6 : OrderSlot)].gen = 0 ∧ (windReturning s).claims[(5 : Chan)] = some 6 ∧
      (windReturning s).asmOf 5 = some 2 ∧ ((windReturning s).asmCfg 2).channels = [5] ∧
      (windReturning s).drivable 5 = true ∧ alreadyThere (s.cfg 5) (s.chan 5) .endIn = false) ∧
    [coach.setHold 21 { guestHold none with scope := 4#8 }, awningIn, coach].map (fun s =>
        (after (.channelReport 5) (windReturning s)).bind fun t => (t.order 6).map fun o =>
          (o.state, o.entries.map (·.state))) =
      [some (.blocked, [.wait]), some (.done, [.arrived]), some (.running, [.moving])] ∧
    (let n : StopNotice := { order := 6#8, hold := 20#8, owner := .party 2, style := .cut, commanded := [] };
      let s := sent [.stop n] ((coach.setOrder 6 { windOrder with state := .running }).setClaim 5 (some 0))
      s.quiet = true ∧ ({ windOrder with state := .running } : Order).anyMoving = false ∧ s.claims[(5 : Chan)] ≠ some 6 ∧
      6 ≤ (6 : OrderSlot).val ∧ (6 : OrderSlot).val = (6#8 : Byte).toNat % 8 ∧
      ((after (.stopNotice 6) s).bind fun t => (t.order 6).map (·.state)) = some .blocked) := by decide +kernel

/-! ## The hypotheses of the statements: tilt and leveller -/

/-- An axis with some readings. -/
def axisOf (rs : List Int) : Axis := { valid := true, readings := rs, timer := some 1 }

theorem test_meets_TiltReadings :
    (∀ x ∈ [(100, 1000), (900, 1000), (5000, 50000), (45000, 50000)], tiltValid x.1 x.2 = true) ∧
    (∀ x ∈ [(99, 1000), (901, 1000), (500, 999), (25000, 50001)], tiltValid x.1 x.2 = false) ∧
    (∀ rs ∈ [[], [1, 2, 3], [1, 2, 3, 4]],
      let s := { coach with tilt := { pitch := axisOf rs, roll := axisOf rs } }
      s.taking = true ∧ s.tilt.pitch.timer ≠ none ∧ s.tilt.roll.timer ≠ none ∧ s.tilt.pitch.valid = true) ∧
    (coach.tilt.pitch.valid = false ∧ coach.lev.solveTimer = none) := by decide

/-- A LEVEL order of party 1 in a stage. -/
def levelIn (stage : Stage) (pass : Nat) : Order :=
  { newOrder 1#8 .level 1#8 .now false [0, 1, 2, 3] with
    state := .running, stage := stage, pass := pass,
    entries := (entriesFor [0, 1, 2, 3]).map fun e => { e with state := .arrived } }

/-- The jacks with that order, and the tilt meter with four readings on each axis. -/
def levelling (stage : Stage) (pass : Nat) (rs : List Int) : State :=
  let s := jacksKnown.setOrder 0 (levelIn stage pass)
  { s with
    tilt := { pitch := axisOf rs, roll := axisOf rs },
    lev := { s.lev with
      freshPitch := 3, freshRoll := 4, solveTimer := if stage = .solve then some 0 else none,
      settleTimer := if stage = .settle then some 0 else none } }

theorem test_meets_SolveAndSettle :
    (let s := levelling .solve 1 [20, 20, 20, 20];
      s.quiet = true ∧ s.tilt.roll.timer ≠ none ∧ s.order 0 = some (levelIn .solve 1) ∧ s.solving = some 0 ∧ s.lev.solveTimer ≠ none ∧
      s.tilt.pitch.timer ≠ none ∧ s.lev.settleTimer = none ∧ tiltValid 500 1000 = true ∧
      (s.tilt.pitch.take (tiltOf 500 1000)).mean = some 15 ∧ s.tilt.roll.mean = some 20 ∧ 3 ≤ s.lev.freshPitch ∧
      4 ≤ s.lev.freshRoll ∧ (15 : Int).natAbs ≤ s.setup.leveller.tolerance ∧
      (20 : Int).natAbs ≤ s.setup.leveller.tolerance) ∧
    (∀ pass ∈ [2, 3],
      let s := levelling .settle pass [20, 20, 20, 20]
      s.quiet = true ∧ s.order 0 = some (levelIn .settle pass) ∧ s.lev.solveTimer = none ∧ s.lev.settleTimer ≠ none ∧
      s.inStage 0 .settle = true ∧ (∀ j : OrderSlot, s.inStage j .settle = true → j = 0) ∧
      (levelIn .settle pass).recallAhead = false ∧ s.tilt.valid = true ∧ s.setup.leveller.maxPasses = 3) ∧
    ({ levelling .settle 2 [] with tilt := TiltMeter.reset } : State).tilt.valid = false := by decide

/-- The corrections of the coach: jack 0 lifts by as much as the pitch, or by a quarter of it; a hold on the stance, or none. -/
def gains (k : Int) (hold : Bool) (s : State) : State :=
  let s := setCfg 0 { s.cfg 0 with kPitch := k } s
  if hold then s.setHold 20 { guestHold none with scope := 1#8 } else s

/-- A stance recall whose LIFT is ahead, with TRIM or without. -/
def recallIn (stage : Stage) (trim : Bool) (o : Order) : Order :=
  { o with kind := .recall, profileKind := some .stance, stage := stage, recallAhead := true,
           image := some { extensions := [(0, 100), (1, 100), (2, 100), (3, 100)], trim := trim } }

/-- A SOLVE of an order, one reading short of its decision, with every reading one value. -/
def deciding (o : Order) (r : Int) (pitch roll : Nat) : State :=
  let s := levelling .solve 1 [r, r, r, r]
  { s.setOrder 0 o with lev := { s.lev with freshPitch := pitch, freshRoll := roll } }

/-- What the decision leaves: the order's state, its pass and its lifts. -/
def decided (s : State) : Option (Option (OrderState × Nat × List Int)) :=
  (after (.tiltReading .pitch 500 1000) s).map fun t =>
    (t.order 0).map fun o => (o.state, o.pass, o.entries.map (·.lift))

theorem decides_of {p q r : Int} {o : Order} :
    (tiltValid 500 1000 = true ∧ ((axisOf [r, r, r, r]).take (tiltOf 500 1000)).mean = some p ∧
      (axisOf [r, r, r, r]).mean = some q) →
    Clause.Decides (.tiltReading .pitch 500 1000) p q (deciding o r 3 4) ∧
      Clause.Decides (.tiltReading .roll 500 1000) q p (deciding o r 4 3) :=
  fun ⟨h, hp, hq⟩ => ⟨⟨nofun, .inl ⟨500, 1000, rfl, h, hp, hq, Nat.le_refl _, Nat.le_refl _⟩⟩,
    ⟨nofun, .inr ⟨500, 1000, rfl, h, hq, hp, Nat.le_refl _, Nat.le_refl _⟩⟩⟩

/-- Within tolerance; a recall without TRIM, and with it; no lift at or above the deadband; out of stroke; a blocked stance;
and a lift. -/
theorem test_meets_LiftDecision :
    (∀ o : Order, Clause.Decides (.tiltReading .pitch 500 1000) 30 40 (deciding o 40 3 4) ∧
      Clause.Decides (.tiltReading .roll 500 1000) 40 30 (deciding o 40 4 3)) ∧
    (∀ o : Order, Clause.Decides (.tiltReading .pitch 500 1000) 15 20 (deciding o 20 3 4)) ∧
    (∀ o ∈ [levelIn .solve 1, recallIn .solve false (levelIn .solve 1), recallIn .solve true (levelIn .solve 1)],
      let s := deciding o 40 3 4
      s.quiet = true ∧ s.solving = some 0 ∧ s.order 0 = some o ∧ o.owner = .party 1 ∧ o.entries.length = 4 ∧
      (∀ e ∈ o.entries, e.claim = .held ∧ s.asmOf e.chan = some 0) ∧ (s.asmCfg 0).kind = .stance ∧
      s.setup.leveller.maxPasses = 3) ∧
    [deciding (levelIn .solve 1) 20 3 4, deciding (recallIn .solve false (levelIn .solve 1)) 40 3 4,
        gains 256 false (deciding (recallIn .solve true (levelIn .solve 1)) 40 3 4),
        gains 64 false (deciding (levelIn .solve 1) 40 3 4),
        (gains 256 false (deciding (levelIn .solve 1) 40 3 4)).setChan 0 (known 971),
        gains 256 true (deciding (levelIn .solve 1) 40 3 4), gains 256 false (deciding (levelIn .solve 1) 40 3 4)].map decided =
      [some (some (.done, 1, [0, 0, 0, 0])), some (some (.failed, 1, [0, 0, 0, 0])),
        some (some (.running, 2, [30, 0, 0, 0])), some (some (.failed, 1, [0, 0, 0, 0])),
        some (some (.failed, 1, [30, 0, 0, 0])), some (some (.stopped, 1, [30, 0, 0, 0])),
        some (some (.running, 1, [30, 0, 0, 0]))] :=
  ⟨fun _ => decides_of (by decide), fun _ => (decides_of (by decide)).1, by decide, by decide +kernel⟩

/-- The jacks under an order, jack 0 with a given record. -/
def reaching (o : Order) (ch : Channel) : State :=
  forAll [0, 1, 2, 3] (fun c s => s.setClaim c (some 0)) ((jacksKnown.setOrder 0 o).setChan 0 ch)

/-- A LEVEL in a stage, jack 0's entry in a state, the others' in another. -/
def levelWith (stage : Stage) (x y : EntryState) (contact : Bool) : Order :=
  { levelIn stage 1 with
    entries := (entriesFor [0, 1, 2, 3]).map fun e =>
      { e with state := if e.chan = 0 then x else y, contact := contact && decide (e.chan = 0) } }

/-- An ARMED TRAVEL at a stranger's request, one whose end is known and one whose position is lost; an ARMED LEVEL and a
stance RECALL, with every jack known and with one lost. -/
theorem test_meets_ReleaseByState_answers :
    ((2#8 : Byte).toNat ≠ 0 ∧ (travelOf .armed .wait).owner ≠ .party (2#8 : Byte).toNat) ∧
    (∀ q ∈ [Target.endOut, .at 50],
      let o := { travelOf .armed .wait with entries := [{ newEntry 4 with goal := some q, direction := some .dirOut }] }
      ((after (.release 1#8 [0#8]) (ordered o Channel.reset)).map fun t =>
          (t.port.answer = answerBytes .ok [] : Bool)) = some (decide (q = .endOut))) ∧
    (∀ o ∈ [levelWith .none .wait .wait false, recallIn .none true (levelWith .none .wait .wait false)],
      let o : Order := { o with state := .armed };
      let s := jacksKnown.setOrder 0 o
      s.ordering = true ∧ s.order 0 = some o ∧ o.owner = .party 1 ∧
      (o.kind = .level ∨ (o.kind = .recall ∧ o.profileKind = some .stance)) ∧
      o.entries.all (fun e => (s.chan e.chan).positionKnown) = true ∧
      answerOf (.release 1#8 [0#8]) (s.setChan 3 Channel.reset) = some (answerBytes .unhomed [])) := by decide +kernel

/-- ARMED travels of the slide to its ends and to a place on either side of it, or where it stands. -/
theorem test_meets_ReleaseDrivesATravel :
    ∀ x ∈ [(Target.endOut, Dir.dirOut), (.endIn, .dirIn), (.at 150, .dirOut), (.at 50, .dirIn), (.at 100, .dirIn)],
      let o := { travelOf .armed .wait with
        entries := [{ newEntry 4 with goal := some x.1, direction := some x.2 }] }
      let s := ordered o (known 100)
      s.quiet = true ∧ s.ordering = true ∧ s.order 0 = some o ∧ o.owner = .party 1 ∧ o.kind = .travel ∧
      s.claims[(4 : Chan)] = some 0 ∧ s.asmOf 4 = some 1 ∧ s.travels 1 = true ∧ (s.asmCfg 1).channels = [4] ∧
      s.blocked 4 x.2 = false ∧ (s.setHold 20 (guestHold none)).blocked 4 x.2 = true ∧
      (s.setHold 20 (guestHold none)).quiet = true ∧ s.drivable 4 = true ∧
      (alreadyThere (s.cfg 4) (s.chan 4) x.1 = true ↔ x.1 = .at 100) ∧
      ((after (.release 1#8 [0#8]) s).bind fun t => (t.order 0).map (·.state)) =
        some (if x.1 = .at 100 then .done else .running) := by decide +kernel

/-- An ARMED LEVEL, a stance RECALL and a STOW, of four jacks without contact. -/
theorem test_meets_ReleaseDrivesTheJacks :
    let level : Order := { levelWith .none .wait .wait false with state := .armed }
    let stow : Order := { level with
      kind := .stow, entries := level.entries.map fun e => { e with direction := some .dirIn, goal := some .endIn } }
    ∀ o ∈ [level, recallIn .none true level, stow],
      let s := jacksKnown.setOrder 0 o
      s.quiet = true ∧ s.ordering = true ∧ s.order 0 = some o ∧ o.owner = .party 1 ∧ o.state = .armed ∧
      s.stanceAsm = some 0 ∧ o.entries ≠ [] ∧ (o.entries.map (·.chan)).Nodup ∧
      (∀ e ∈ o.entries, e.claim = .held ∧ e.state = .wait ∧ s.asmOf e.chan = some 0 ∧ s.drivable e.chan = true ∧
        (s.chan e.chan).auxActive = false ∧ (s.chan e.chan).positionKnown = true ∧ s.blocked e.chan .dirOut = false ∧
        s.blocked e.chan .dirIn = false ∧ alreadyThere (s.cfg e.chan) (s.chan e.chan) .endOut = false ∧
        alreadyThere (s.cfg e.chan) (s.chan e.chan) .endIn = false) := by decide +kernel

theorem test_meets_ReachAndContact :
    (∀ ch ∈ [outward 200, Channel.reset, { outward 200 with travelled := 2999 },
        { outward 200 with state := .easing, travelled := 2999 }, { known 200 with auxActive := true }],
      ∀ o ∈ [levelWith .reach .moving .moving false, levelWith .reach .moving .arrived true,
        levelWith .reach .arrived .moving false, levelWith .reach .arrived .arrived false,
        levelWith .solve .arrived .arrived false, levelWith .settle .arrived .arrived false,
        levelWith .lift .arrived .moving false],
      (reaching o ch).quiet = true ∧ (reaching o ch).order 0 = some o ∧ (reaching o ch).stagedSlot = some 0 ∧
      (reaching o ch).stanceAsm = some 0 ∧ (reaching o ch).asmOf 0 = some 0 ∧ (reaching o ch).chan 0 = ch) ∧
    ((jacksKnown.cfg 0).maxReach = 2999 + 1 ∧ (levelWith .lift .arrived .moving false).anyMoving = true ∧
      (levelWith .reach .arrived .arrived false).anyMoving = false ∧
      (levelWith .reach .arrived .moving false).anyMoving = true ∧
      (levelWith .reach .moving .moving false).entries.map (fun e => (e.chan, e.state, e.contact)) =
        [(0, .moving, false), (1, .moving, false), (2, .moving, false), (3, .moving, false)]) ∧
    (let s := reaching (levelWith .lift .arrived .moving false) { known 200 with auxActive := true };
      s.faultStands 0 = false ∧ Inv jacksKnown) :=
  ⟨by decide, by decide, by decide,
    (ran_setChan 3 _ _).inv ((ran_setChan 2 _ _).inv ((ran_setChan 1 _ _).inv ((ran_setChan 0 _ _).inv inv_coach rfl) rfl) rfl)
      rfl⟩

/-- A report of jack 0 on its way. -/
def reporting (kind : ReportKind) (s : State) : State :=
  sent [.report { chan := 0, kind := kind, order := 0#8, position := some 200, atEnd := none }] s

/-- A halt at contact and an arrival, in contact and without; the last entry to arrive and one of two; the tilt meter VALID
and not. -/
theorem test_meets_ReachEnds :
    (∀ kind ∈ [ReportKind.halt, .arrival], ∀ y ∈ [EntryState.arrived, .moving], ∀ contact aux : Bool,
      let o := levelWith .reach .moving y contact
      let s := reporting kind (reaching o { known 200 with auxActive := aux })
      s.quiet = true ∧ s.order 0 = some o ∧ o.kind = .level ∧ o.state = .running ∧ o.recallAhead = false ∧
      s.claims[(0 : Chan)] = some 0 ∧ s.succs[(0 : Chan)] = none ∧ (∀ j : OrderSlot, s.inStage j .reach = true → j = 0)) ∧
    ((levelling .solve 1 [1]).tilt.valid = true ∧ jacksKnown.tilt.valid = false) := by decide

/-- What the report that ends the REACH of a recall leaves: the order's state, stage and entries. -/
def lifted (s : State) : Option (OrderState × Stage × List (EntryState × Int)) :=
  (after (.channelReport 0) s).bind fun t =>
    (t.order 0).map fun o => (o.state, o.stage, o.entries.map fun e => (e.state, e.lift))

/-- A stance recall at the last report of its REACH: jack 0 in contact at 200, sent to 300, the others at contact_pos 400 and
at a given place. -/
def landing (p : Nat) : State :=
  let o := recallIn .reach true (levelWith .reach .moving .arrived true)
  let s := reaching o { known 200 with auxActive := true, contactPos := some 200 }
  reporting .halt (forAll [1, 2, 3] (fun c s => s.setChan c { known p with auxActive := true, contactPos := some 400 }) s)

/-- The others at their target, beyond it, short of it; a target past the span; a blocked stance; every jack at its target. -/
theorem test_meets_RecallLift :
    (∀ p ∈ [500, 600, 400],
      (landing p).quiet = true ∧ (landing p).inStage 0 .reach = true ∧
      (∀ j : OrderSlot, (landing p).inStage j .reach = true → j = 0) ∧ (landing p).claims[(0 : Chan)] = some 0 ∧
      (landing p).succs[(0 : Chan)] = none) ∧
    [landing 500, landing 600, gains 0 true (landing 400),
        (landing 500).setChan 3 { known 1000 with contactPos := some 901 },
        (landing 500).setChan 0 { known 300 with contactPos := some 200 }].map lifted =
      [some (.running, .lift, [(.moving, 100), (.arrived, 0), (.arrived, 0), (.arrived, 0)]),
        some (.running, .lift, [(.moving, 100), (.moving, -100), (.moving, -100), (.moving, -100)]),
        some (.stopped, .lift, List.replicate 4 (.halted, 100)),
        some (.failed, .lift, List.replicate 4 (.arrived, 0)),
        some (.running, .settle, List.replicate 4 (.arrived, 0))] ∧
    (let o := recallIn .settle true (levelWith .settle .arrived .arrived false);
      let s := (levelling .settle 1 [20]).setOrder 0 o
      s.quiet = true ∧ s.order 0 = some o ∧ s.lev.settleTimer ≠ none ∧ s.tilt.valid = true ∧
      ∀ j : OrderSlot, s.inStage j .settle = true → j = 0) :=
  ⟨by decide, by decide +kernel, by decide⟩

/-- An end not found by overrun; creep_in completed, before the approach and within it; RUNNING at the approach and before
it. -/
theorem test_meets_Counts_of_motion :
    (∀ ch ∈ [{ outward 1000 with overrun := 99 }, { outward 1000 with overrun := 98 },
        { outward 200 with state := .starting, travelled := 48 }, { outward 200 with state := .starting, travelled := 49 },
        { outward 800 with state := .starting, travelled := 49 }, outward 698, outward 699],
      (slideAt ch).quiet = true ∧ ch.state.pursuing = true ∧ ch.target = .endOut ∧ ch.positionKnown = true) ∧
    ((coach.cfg 4).endWindow = 100 ∧ (coach.cfg 4).creepIn = 50 ∧ (coach.cfg 4).approach = 300 ∧
      (coach.cfg 4).span = 1000) ∧
    ([{ outward 1000 with overrun := 99 }, { outward 200 with state := .starting, travelled := 48 },
        { outward 200 with state := .starting, travelled := 49 }, { outward 800 with state := .starting, travelled := 49 },
        outward 698, outward 699].map fun ch => (after (.count 4) (slideAt ch)).map fun t => (t.chan 4).state) =
      [some .idle, some .starting, some .running, some .approach, some .running, some .approach] := by decide

/-- The stall timer at a count: restarted in STARTING, RUNNING and APPROACH, and not of a PAUSED channel. -/
theorem test_meets_Counts_stallTimer :
    [ChState.starting, .running, .approach, .paused].map (fun st =>
        (after (.count 4) (slideAt { outward 200 with state := st, stallTimer := some 7 })).map
          fun t => (t.chan 4).stallTimer) =
      [some (some 500000), some (some 500000), some (some 500000), some (some 7)] := by decide +kernel

/-- R188: RLS, high for 9.95 ms, rises with the next quantum. -/
theorem test_rls_rises :
    (let s := tick { coach with
        port := { coach.port with rlsHigh := false, rlsWait := some 9950 }, pins := { coach.pins with rls := true } };
      (s.port.rlsHigh, s.port.rlsWait)) = (true, none) := by decide +kernel

/-- A tolerance held from before a SET_CHANNEL. -/
theorem test_meets_EndSensors_tolerance :
    let s := ends { known 940 with heldTolerance := some 59 } false false
    s.quiet = true ∧ (s.chan 4).inActive = false ∧ (s.chan 4).outActive = false ∧ (s.cfg 4).endTolerance = 50 ∧
    (after (.outBecomesActive 4) s).map (·.flag .spanDrift) = some true := by decide

/-! ## The hypotheses of the statements: supply and reset -/

theorem test_meets_PowerAndReset :
    (coach.sys.rstLow = false ∧ coach.sys.supply = true ∧ asleep.sys.supply = false ∧ coach.store.op = none ∧
      (storing .erasing .erase (.slot 3) (.erase 0)).store.op ≠ none) ∧
    (let s := { coach with sys := resetPart coach.sys };
      s.sys.rstLow = true ∧ s.sys.supply = true ∧ s.sys.startUp = .step2) := by decide

/-- A part that waits for READY under a setup, with nothing but a directory and a notice word. -/
def waking (x : Setup) : State :=
  State.afterReset x NvArray.blank Pins.quiet true { partIn .loading with nextStatus := .configured, startUp := .step3 } []

theorem fresh_waking (x : Setup) : Fresh (waking x) where
  channels := by
    intro c
    have h : ∀ c : Chan, (Vector.replicate 12 Channel.reset)[c] = Channel.reset := by decide
    exact (h c).trans (by rw [show (waking x).chan c = Channel.reset from h c])
  claims   := rfl
  succs    := rfl
  asms     := rfl
  holds    := rfl
  orders   := rfl
  mon      := rfl
  tilt     := rfl
  lev      := rfl
  store    := rfl
  mask     := rfl
  deaf     := ⟨rfl, rfl, rfl, rfl⟩
  between  := ⟨rfl, rfl⟩

theorem test_meets_Ready :
    let s := waking coachSetup
    s.awake = true ∧ s.sys.status = .loading ∧ s.sys.startUp = .step3 ∧ Fresh s ∧
    coach.awake = true ∧ coach.sys.status ≠ .loading :=
  ⟨by decide, by decide, by decide, fresh_waking _, by decide, by decide⟩

/-- The coach with its slide needing the stance, and a sweep pair of its awning and that slide. -/
def needySetup : Setup :=
  { coachSetup with
    asms := coachSetup.asms.set 1 { asmOn .slide [4] with needsStance := true },
    sweep := coachSetup.sweep.set 0 { defined := true, awning := 2, slide := 1 } }

/-- Pins with the ends of the slide and of the awning at given levels, TRP of a jack, and both ends of another. -/
def pinsOf (slideIn awningIn trip conflict : Bool) : Pins :=
  let p := Pins.quiet
  let at0 := fun (c : Chan) (b : Bool) (p : Pins) => { p with chan := p.chan.set c { p.chan[c] with eni := b } }
  let p := at0 4 slideIn (at0 5 awningIn p)
  let p := { p with chan := p.chan.set 0 { p.chan[0] with trp := trip } }
  { p with chan := p.chan.set 1 { p.chan[1] with eni := conflict, eno := conflict } }

/-- The causes, scopes and details of the holds that READY makes. -/
def wakes (x : Setup) (p : Pins) : Option (List (Cause × BitVec 8 × Option FaultKind)) :=
  (after (.ready p) (waking x)).map fun t =>
    allHolds.filterMap fun h => (t.hold h).map fun x => (x.cause, x.scope, x.detail)

/-- Nothing but UNSET; the line holds; a slide that is out; an awning that is out; a trip, and a conflict. -/
theorem test_meets_HoldsAtReady :
    [(needySetup, pinsOf true true false false), (coachSetup, { Pins.quiet with ign := true, estp := false }),
        (needySetup, pinsOf false true false false), (needySetup, pinsOf true false true false),
        (needySetup, pinsOf true true false true)].map (fun x => wakes x.1 x.2) =
      [some [(.unset, 2#8, none)], some [(.road, 0xFF#8, none), (.estop, 0xFF#8, none), (.unset, 0#8, none)],
        some [(.unset, 2#8, none), (.slidesOut, 1#8, none), (.sweep, 4#8, none)],
        some [(.unset, 2#8, none), (.sweep, 2#8, none), (.fault, 1#8, some .trip)],
        some [(.unset, 2#8, none), (.fault, 1#8, some .sensorConflict)]] ∧
    (waking needySetup).stanceAsm = some 0 ∧ (waking Setup.default).stanceAsm = none :=
  ⟨by decide +kernel, by decide, by decide⟩

end Sys2Proof.Tests
end

namespace Sys2Proof.Proofs
open Sys2Proof.Machine Sys2Proof.Laws

/-! ## A request as a command -/

/-- A state that takes requests is out of reset, past LOADING, and has no action under way. -/
theorem taking_iff (s : State) :
    s.taking = true ↔ s.awake = true ∧ s.sys.status ≠ .loading ∧ s.reconsider = false := by
  simp [State.taking, State.up, and_assoc]

/-- R178: past the checks of party, status and length, a request open while CONFIGURED or UNCONFIGURED is answered by its
rule. -/
theorem checkRequest_ready {party : Byte} {s : State} (rule : State → Reply) (status : s.sys.status ≠ .loading)
    (hp : party.toNat < 8) : checkRequest .ready party true rule s = rule s := by
  have known : ¬7 < party.toNat := by omega
  simp [checkRequest, status, known]

/-- R178: a request that passes the checks leaves the state its rule gives, with the rule's answer on the port, where the
rule asks for nothing to be reconsidered. -/
theorem takeRequest_ready {party : Byte} {s t : State} {rule : State → Reply} {r : Result} {data : List Byte}
    (ht : s.taking = true) (hp : party.toNat < 8) (answers : rule s = (t, r, data)) (clear : t.reconsider = false) :
    takeRequest .ready party true rule s = respond r data t := by
  obtain ⟨awake, status, -⟩ := (taking_iff s).mp ht
  simp [takeRequest, awake, checkRequest_ready rule status hp, answers, settle_of_clear clear]

/-! ## Profile slots -/

/-- R163, R169: a byte of 32 or more names no slot. -/
theorem profileSlotOf_eq_none {b : Byte} (h : 32 ≤ b.toNat) : profileSlotOf b = none :=
  dif_neg (by omega)

theorem profileSlotOf_byte (q : ProfileSlot) : profileSlotOf (byte q.val) = some q := by
  have value : (byte q.val).toNat = q.val := by
    simp only [byte, BitVec.toNat_ofNat]
    omega
  simp [profileSlotOf, value]

/-- R155: only a VALID slot becomes INVALID by a failed read. -/
theorem invalidateSlot_of_valid {q : ProfileSlot} {s : State} (h : (s.store.directory[q]).state = .valid) :
    invalidateSlot q s = setDir q (DirEntry.plain .invalid) s :=
  if_pos h

theorem invalidateSlot_of_not_valid {q : ProfileSlot} {s : State} (h : (s.store.directory[q]).state ≠ .valid) :
    invalidateSlot q s = s :=
  if_neg h

/-! ## The rule of READ_PROFILE (R169), step by step -/

theorem ruleReadProfile_above {b : Byte} (h : 32 ≤ b.toNat) (s : State) :
    ruleReadProfile [b] s = (s, .badArgument, []) := by
  simp [ruleReadProfile, at8, profileSlotOf_eq_none h, refuse]

/-- R169 steps 2 to 4, for a slot that exists. -/
theorem ruleReadProfile_slot (q : ProfileSlot) (s : State) :
    ruleReadProfile [byte q.val] s =
      if s.store.state ≠ .idle then (s, .storeBusy, [])
      else if (s.store.directory[q]).state = .empty then (s, .empty, [])
      else if imageCrcOk (s.slotBytes q) then (s, .ok, s.slotBytes q)
      else (invalidateSlot q s, .profileInvalid, s.slotBytes q) := by
  simp only [ruleReadProfile, at8, List.getD_cons_zero, profileSlotOf_byte, refuse]

theorem ruleReadProfile_busy {q : ProfileSlot} {s : State} (busy : s.store.state ≠ .idle) :
    ruleReadProfile [byte q.val] s = (s, .storeBusy, []) := by
  rw [ruleReadProfile_slot, if_pos busy]

theorem ruleReadProfile_empty {q : ProfileSlot} {s : State} (idle : s.store.state = .idle)
    (empty : (s.store.directory[q]).state = .empty) : ruleReadProfile [byte q.val] s = (s, .empty, []) := by
  rw [ruleReadProfile_slot, if_neg (not_not_intro idle), if_pos empty]

theorem ruleReadProfile_passes {q : ProfileSlot} {s : State} (idle : s.store.state = .idle)
    (full : (s.store.directory[q]).state ≠ .empty) (pass : imageCrcOk (s.slotBytes q) = true) :
    ruleReadProfile [byte q.val] s = (s, .ok, s.slotBytes q) := by
  rw [ruleReadProfile_slot, if_neg (not_not_intro idle), if_neg full, if_pos pass]

theorem ruleReadProfile_fails {q : ProfileSlot} {s : State} (idle : s.store.state = .idle)
    (full : (s.store.directory[q]).state ≠ .empty) (fail : ¬imageCrcOk (s.slotBytes q) = true) :
    ruleReadProfile [byte q.val] s = (invalidateSlot q s, .profileInvalid, s.slotBytes q) := by
  rw [ruleReadProfile_slot, if_neg (not_not_intro idle), if_neg full, if_neg fail]

/-- R169: READ_PROFILE is taken with the answer of its rule. -/
theorem exec_readProfile {p b : Byte} {s t : State} {r : Result} {data : List Byte} (ht : s.taking = true)
    (hp : p.toNat < 8) (answers : ruleReadProfile [b] s = (t, r, data)) (clear : t.reconsider = false) :
    exec (.readProfile p [b]) s = .next (respond r data t) :=
  congrArg Host.Outcome.next (takeRequest_ready ht hp answers clear)

/-- Settles O28, by the steps of R169 in their order: each condition picks one answer of the rule, and a failed CRC
leaves the directory as the slot's state says. -/
theorem readProfile : Obligations.ReadProfile := by
  intro p q s ht hp bs ok
  obtain ⟨-, -, clear⟩ := (taking_iff s).mp ht
  have crc : imageCrcOk (s.slotBytes q) = true ↔ ok := decide_eq_true_iff
  refine ⟨fun b above => ?above, fun busy => ?busy, fun idle empty => ?empty, fun idle full pass => ?passes,
    fun idle valid fail => ?validFails, fun idle invalid fail => ?invalidFails⟩
  case above => exact exec_readProfile ht hp (ruleReadProfile_above above s) clear
  case busy => exact exec_readProfile ht hp (ruleReadProfile_busy busy) clear
  case empty => exact exec_readProfile ht hp (ruleReadProfile_empty idle empty) clear
  case passes => exact exec_readProfile ht hp (ruleReadProfile_passes idle full (crc.mpr pass)) clear
  case validFails =>
    have answers := ruleReadProfile_fails idle (by rw [valid]; decide) (mt crc.mp fail)
    rw [invalidateSlot_of_valid valid] at answers
    exact exec_readProfile ht hp answers clear
  case invalidFails =>
    have answers := ruleReadProfile_fails idle (by rw [invalid]; decide) (mt crc.mp fail)
    rw [invalidateSlot_of_not_valid (by rw [invalid]; decide)] at answers
    exact exec_readProfile ht hp answers clear

end Sys2Proof.Proofs

namespace Sys2Proof.Proofs
open Sys2Proof.Machine Sys2Proof.Laws

/-! ## Bytes of a frame -/

theorem at8_append_left {xs : List Byte} (ys : List Byte) {i : Nat} (h : i < xs.length) :
    at8 (xs ++ ys) i = at8 xs i := by
  simp only [at8, List.getD_eq_getElem?_getD, List.getElem?_append_left h]

theorem at8_append_length (xs : List Byte) (b : Byte) : at8 (xs ++ [b]) xs.length = b := by
  simp only [at8, List.getD_eq_getElem?_getD, List.getElem?_concat_length, Option.getD_some]

/-- Two bytes, low byte first, are one 16-bit word. -/
theorem ofNat_at16_pair (lo hi : Byte) : BitVec.ofNat 16 (at16 [lo, hi] 0) = hi ++ lo := by
  have pair : at16 [lo, hi] 0 = lo.toNat + 256 * hi.toNat := rfl
  apply BitVec.eq_of_toNat_eq
  rw [pair, BitVec.toNat_ofNat, BitVec.toNat_append, ← Nat.shiftLeft_add_eq_or_of_lt lo.isLt, Nat.shiftLeft_eq]
  omega

/-! ## The CRC-8 (R177) -/

/-- R177: a byte more is eight bits more. -/
theorem crc8_append_singleton (bs : List Byte) (b : Byte) : crc8 (bs ++ [b]) = crc8Byte (crc8 bs) b :=
  List.foldl_append

theorem crc8Byte_eq_repeat (crc b : Byte) : crc8Byte crc b = Nat.repeat crc8Bit 8 (crc ^^^ b) :=
  rfl

/-- R177: a CRC taken over itself leaves no residue. -/
theorem crc8Byte_self (crc : Byte) : crc8Byte crc crc = 0x00#8 := by
  rw [crc8Byte_eq_repeat, BitVec.xor_self]
  decide

/-! ## A byte that completes in RECEIVING (R175 to R177) -/

theorem exec_byteComplete (b : Byte) {s : State} (awake : s.awake = true) :
    exec (.byteComplete b) s = .next (takeByte b s) :=
  congrArg Host.Outcome.next (if_pos awake)

theorem exec_byteComplete_receiving (b : Byte) {s : State} (awake : s.awake = true)
    (receiving : s.port.assembler = .receiving) : exec (.byteComplete b) s = .next (receive b s) := by
  rw [exec_byteComplete b awake, takeByte, receiving]

/-- R176: byte 2 with L above 32. -/
theorem receive_long_length {b : Byte} {s : State} (two : s.port.buffer.length = 2) (long : 32 < b.toNat) :
    receive b s = overlong s := by
  have length : at8 (s.port.buffer ++ [b]) 2 = b := two ▸ at8_append_length s.port.buffer b
  simp [receive, length, two, long]

/-- R176: byte 2 with L up to 32. -/
theorem receive_length {b : Byte} {s : State} (two : s.port.buffer.length = 2) (short : b.toNat ≤ 32) :
    receive b s = { s with port := { s.port with buffer := s.port.buffer ++ [b], sdo := some 0xFF#8 } } := by
  have length : at8 (s.port.buffer ++ [b]) 2 = b := two ▸ at8_append_length s.port.buffer b
  simp [receive, length, two, Nat.not_lt.mpr short]

/-- R176: past byte 2, the byte at position 3+L is the check byte, and any other is stored. -/
theorem receive_after_length (b : Byte) {s : State} (header : 3 ≤ s.port.buffer.length) :
    receive b s =
      if s.port.buffer.length = 3 + (at8 s.port.buffer 2).toNat then takeFrame (s.port.buffer ++ [b]) s
      else { s with port := { s.port with buffer := s.port.buffer ++ [b], sdo := some 0xFF#8 } } := by
  have length : at8 (s.port.buffer ++ [b]) 2 = at8 s.port.buffer 2 := at8_append_left [b] header
  have past : s.port.buffer.length ≠ 2 := by omega
  have last : s.port.buffer.length + 1 = 4 + (at8 s.port.buffer 2).toNat ↔
      s.port.buffer.length = 3 + (at8 s.port.buffer 2).toNat := by omega
  simp [receive, length, past, header, last]

/-- R177, R178: a frame's body and its check byte. -/
theorem takeFrame_append {body : List Byte} (b : Byte) (s : State) (header : 2 ≤ body.length) :
    takeFrame (body ++ [b]) s =
      if crc8 body = b then dispatch (at8 body 0) (at8 body 1) (body.drop 3) s else answerBadCheck s := by
  have code : at8 (body ++ [b]) 0 = at8 body 0 := at8_append_left [b] (by omega)
  have party : at8 (body ++ [b]) 1 = at8 body 1 := at8_append_left [b] (by omega)
  simp only [takeFrame, List.dropLast_concat, at8_append_length, code, party]

/-- R177: the byte at position 3+L decides whether the frame is taken or answered BAD_CHECK. -/
theorem exec_checkByte (b : Byte) {s : State} (awake : s.awake = true) (receiving : s.port.assembler = .receiving)
    (header : 3 ≤ s.port.buffer.length) (full : s.port.buffer.length = 3 + (at8 s.port.buffer 2).toNat) :
    exec (.byteComplete b) s =
      .next (if crc8 s.port.buffer = b
        then dispatch (at8 s.port.buffer 0) (at8 s.port.buffer 1) (s.port.buffer.drop 3) s
        else answerBadCheck s) := by
  rw [exec_byteComplete_receiving b awake receiving, receive_after_length b header, if_pos full,
    takeFrame_append b s (by omega)]

/-- Settles O11: the CRC-8 is its bit step eight times per byte, and the check byte's comparison picks the request or
BAD_CHECK. -/
theorem checkByte : Obligations.CheckByte := by
  refine ⟨⟨rfl, fun bs b => ?oneByte⟩, fun bs => ?residue,
    fun b s awake receiving header full => ⟨fun differs => ?bad, fun agrees => ?taken⟩⟩
  case oneByte => exact (crc8_append_singleton bs b).trans (crc8Byte_eq_repeat _ b)
  case residue => rw [crc8_append_singleton, crc8Byte_self]
  case bad =>
    rw [exec_checkByte b awake receiving header full, if_neg differs]
    rfl
  case taken => rw [exec_checkByte b awake receiving header full, if_pos agrees]

/-- R175, R176: in DISCARDING a byte changes nothing, once SDO carries 0xFF. -/
theorem exec_byteComplete_discarding (x : Byte) {s : State} (awake : s.awake = true)
    (discarding : s.port.assembler = .discarding) (sdo : s.port.sdo = some 0xFF#8) :
    exec (.byteComplete x) s = .next s := by
  have unchanged : takeByte x s = s := by
    simp only [takeByte, discarding, ← sdo]
    rw [← discarding]
  rw [exec_byteComplete x awake, unchanged]

/-- R176: FRAME_OVERLONG as a command of its own. -/
theorem exec_frameOverlong {s : State} (awake : s.awake = true) : exec .frameOverlong s = .next (overlong s) :=
  congrArg Host.Outcome.next (if_pos awake)

/-- Settles O13, by the position of the byte in its frame: byte 2 is held against 32, and a later one is the check byte
where 3+L bytes stand before it. -/
theorem argumentLength : Obligations.ArgumentLength := by
  refine ⟨fun code p n s awake receiving two => ?lengthByte,
    fun code p n b args s awake receiving short buffer => ?later⟩
  case lengthByte =>
    have length : s.port.buffer.length = 2 := congrArg List.length two
    rw [exec_byteComplete_receiving n awake receiving]
    refine ⟨fun long => ⟨overlong s, ?tooLong, exec_frameOverlong awake, rfl, fun x => ?discards⟩, fun short => ?fits⟩
    case tooLong => rw [receive_long_length length long]
    case discards => exact exec_byteComplete_discarding x (s := overlong s) awake rfl rfl
    case fits =>
      rw [receive_length length short, two]
      rfl
  case later =>
    have header : 3 ≤ s.port.buffer.length := by simp [buffer]
    have full : s.port.buffer.length = 3 + (at8 s.port.buffer 2).toNat ↔ args.length = n.toNat := by
      simp [buffer, at8]
      omega
    rw [exec_byteComplete_receiving b awake receiving, receive_after_length b header]
    simp only [full]
    exact ⟨fun fewer => by rw [if_neg (Nat.ne_of_lt fewer)], fun all => by rw [if_pos all]⟩

/-! ## A request's checks and its answer (R178) -/

/-- R178: what the checks and the rule reply is answered, where nothing is to be reconsidered. -/
theorem takeRequest_of_reply {gate : Gate} {party : Byte} {form : Bool} {rule : State → Reply} {s t : State}
    {r : Result} {data : List Byte} (awake : s.awake = true)
    (reply : checkRequest gate party form rule s = (t, r, data)) (clear : t.reconsider = false) :
    takeRequest gate party form rule s = respond r data t := by
  simp [takeRequest, awake, reply, settle_of_clear clear]

/-- R178: READ_IDENT and READ_NOTICES pass the checks in every setup status. -/
theorem checkRequest_always {party : Byte} (rule : State → Reply) (s : State) (hp : party.toNat < 8) :
    checkRequest .always party true rule s = rule s := by
  have known : ¬7 < party.toNat := by omega
  simp [checkRequest, known]

/-- R178 step 2: while LOADING a request is NOT_READY, whatever else it carries. -/
theorem checkRequest_loading {gate : Gate} (party : Byte) (form : Bool) (rule : State → Reply) {s : State}
    (h : gate ≠ .always) (loading : s.sys.status = .loading) :
    checkRequest gate party form rule s = (s, .notReady, []) :=
  if_pos ⟨h, loading⟩

/-! ## READ_IDENT and the notice word -/

/-- Settles O17: READ_IDENT passes the checks in every setup status, and its rule changes nothing. -/
theorem readIdent : Obligations.ReadIdent := by
  intro p s awake clear hp
  have answered : exec (.readIdent p []) s = .next (respond .ok s.ident s) :=
    congrArg Host.Outcome.next (takeRequest_of_reply awake (checkRequest_always ruleReadIdent s hp) clear)
  rw [answered, State.ident]
  cases s.sys.status <;> rfl

/-- R185: READ_NOTICES answers the word as it stands and clears it. -/
theorem exec_readNotices : Clause.ReadNotices := by
  intro p s awake clear hp
  exact congrArg Host.Outcome.next (takeRequest_of_reply awake (checkRequest_always ruleReadNotices s hp) clear)

/-- R186: the two bytes are the mask, low byte first. -/
theorem ruleSetNoticeMask_pair (lo hi : Byte) (s : State) :
    ruleSetNoticeMask [lo, hi] s = ({ s with port := { s.port with mask := hi ++ lo } }, .ok, []) := by
  rw [ruleSetNoticeMask, ofNat_at16_pair]

/-- R187: out of reset ATN follows word and mask alone. -/
theorem atnLow_of_awake {s : State} (awake : s.awake = true) :
    s.atnLow = decide (s.port.word &&& s.port.mask ≠ 0#16) := by
  rw [State.awake] at awake
  rw [State.atnLow, awake, Bool.true_and]

/-- R186, R187: SET_NOTICE_MASK is NOT_READY while LOADING; otherwise the mask is replaced and ATN follows it. -/
theorem exec_setNoticeMask : Clause.SetNoticeMask := by
  intro p lo hi s awake clear hp
  refine ⟨fun loading => ?loading, fun status => ⟨_, ?taken, rfl, ?atn⟩⟩
  case loading =>
    exact congrArg Host.Outcome.next
      (takeRequest_of_reply awake (checkRequest_loading p _ _ (by decide) loading) clear)
  case taken =>
    have reply := (checkRequest_ready (ruleSetNoticeMask [lo, hi]) status hp).trans (ruleSetNoticeMask_pair lo hi s)
    exact congrArg Host.Outcome.next (takeRequest_of_reply awake reply clear)
  case atn => exact atnLow_of_awake awake

/-- Settles O18: READ_NOTICES, and SET_NOTICE_MASK with ATN. -/
theorem noticeWord : Obligations.NoticeWord :=
  ⟨exec_readNotices, exec_setNoticeMask⟩

end Sys2Proof.Proofs
